-- ==== Sys2Proof/Word.lean ====
section
/-! DEFINITION. The words of the engine: the widths of 00_scope.md rule R5 and the two-valued Bit of
10_state.md rule R14. -/

namespace Sys2Proof

/-- `XLEN` = 32 bits, unsigned (R5): operands `A` and `B`, `WPB`, and the counts of `STR`. -/
abbrev Word := BitVec 32

/-- An 8-bit value: a byte to frame, a character (R50, R84). -/
abbrev Byte := BitVec 8

/-- The 16-bit operand of WRITE_UINT16 (R53). -/
abbrev Half := BitVec 16

/-- A write-operation identifier, `WOP_W` = 4 bits (R5, R16). -/
abbrev WopId := BitVec 4

/-- One beat of the command port, `CMD_W` = 80 bits (R5, R48). -/
abbrev Beat := BitVec 80

/-- A Bit: a two-valued logic level (R14), 1 on `wr_bit` for Mark and 0 for Space. -/
abbrev Bit := Bool

/-- `MARK` = 1, the idle level and the stop bit (R14). -/
abbrev mark : Bit := true

/-- `SPACE` = 0, the start bit (R14). -/
abbrev space : Bit := false

end Sys2Proof
end

