-- ==== Sys2Proof/Syntax.lean ====
section
/-! DEFINITION. The nine commands of 30_encoding.md rule R56, one constructor per row of
spec/opcode_table.json, with the operands rule R60 decodes. -/

namespace Sys2Proof

/-- A decoded header (R60). A command is selected by its opcode alone (R56); the internal raw write and bit-write
have no opcode (R57) and so no constructor, and a reserved opcode names no command (R58). -/
inductive Instr where
  /-- OPEN, 0x01 (R67): `wop` is `none` when the present flag `P` is 0 (R51). -/
  | openChannel (baudRate : Word) (wop : Option WopId) (writeDurationNs : Word)
  /-- CLOSE, 0x02 (R73). -/
  | closeChannel
  /-- CALIBRATE, 0x03 (R110). -/
  | calibrate
  /-- WRITE_BYTE, 0x04 (R84). -/
  | writeByte (byte : Byte)
  /-- WRITE_STRING, 0x05 (R92): the header; its characters follow as `len` payload beats (R55). `len` is 0 when
  no text is present (R60). -/
  | writeString (textPresent : Bool) (len : Word) (width : Word)
  /-- WRITE_DECIMAL, 0x06 (R96): `value` is read as two's complement (R53). -/
  | writeDecimal (value : Word) (width : Word)
  /-- WRITE_UINT8, 0x07 (R102). -/
  | writeUint8 (value : Byte)
  /-- WRITE_UINT16, 0x08 (R104). -/
  | writeUint16 (value : Half)
  /-- WRITE_UINT32, 0x09 (R105). -/
  | writeUint32 (value : Word)
deriving DecidableEq, Repr

/-- The opcode of a command (R56). -/
def Instr.opcode : Instr → Byte
  | .openChannel _ _ _ => 0x01
  | .closeChannel => 0x02
  | .calibrate => 0x03
  | .writeByte _ => 0x04
  | .writeString _ _ _ => 0x05
  | .writeDecimal _ _ => 0x06
  | .writeUint8 _ => 0x07
  | .writeUint16 _ => 0x08
  | .writeUint32 _ => 0x09

end Sys2Proof
end

