-- ==== Sys2Proof/WellFormed.lean ====
section
/-! DEFINITION. Which terms of `Instr` a header can encode. The operand types leave one check: an absent text
has length 0 (30_encoding.md rule R60). -/

namespace Sys2Proof

/-- `LEN = (if P = 1 then A else 0)` (R60): without a text the length is 0. Every other operand is legal at every
value (R52, R53, R54). -/
def Instr.wf : Instr → Bool
  | .openChannel _ _ _ => true
  | .closeChannel => true
  | .calibrate => true
  | .writeByte _ => true
  | .writeString textPresent len _ => textPresent || decide (len = 0)
  | .writeDecimal _ _ => true
  | .writeUint8 _ => true
  | .writeUint16 _ => true
  | .writeUint32 _ => true

end Sys2Proof
end

