-- ==== Sys2Proof/Decode.lean ====
section
/-! DEFINITION. The encoding of 30_encoding.md: the fields of a header and of a payload beat, the decoder of rule
R60, total on every 80-bit word, the encoder of rules R49 and R62, and the packet length of rule R55. -/

namespace Sys2Proof

/-- `OP`, bits 7:0 of a header (R49). -/
def opField (w : Beat) : Byte := w.extractLsb' 0 8

/-- `P`, bit 8 of a header: the present flag (R49, R51). -/
def presentField (w : Beat) : Bool := w.getLsbD 8

/-- `ID`, bits 15:12 of a header (R49, R52). -/
def idField (w : Beat) : WopId := w.extractLsb' 12 4

/-- `A`, bits 47:16 of a header (R49, R53). -/
def aField (w : Beat) : Word := w.extractLsb' 16 32

/-- `B`, bits 79:48 of a header (R49, R54). -/
def bField (w : Beat) : Word := w.extractLsb' 48 32

/-- `CH`, bits 7:0 of a payload beat; bits 79:8 are ignored (R50). -/
def chField (w : Beat) : Byte := w.extractLsb' 0 8

/-- Why a header names no command. -/
inductive DecodeError where
  /-- `OP` is 0x00 or 0x0A to 0xFF (R58); `step` then takes the beat and does nothing, as R58 says. -/
  | reservedOpcode (op : Byte)
deriving DecidableEq, Repr

/-- Decoding a header (R60). The narrow values are the low bits of `A`; every bit the command does not use is
ignored (R59). -/
def decode (w : Beat) : Except DecodeError Instr :=
  match (opField w).toNat with
  | 1 => .ok (.openChannel (aField w) (if presentField w then some (idField w) else none) (bField w))
  | 2 => .ok .closeChannel
  | 3 => .ok .calibrate
  | 4 => .ok (.writeByte ((aField w).extractLsb' 0 8))
  | 5 => .ok (.writeString (presentField w) (if presentField w then aField w else 0) (bField w))
  | 6 => .ok (.writeDecimal (aField w) (bField w))
  | 7 => .ok (.writeUint8 ((aField w).extractLsb' 0 8))
  | 8 => .ok (.writeUint16 ((aField w).extractLsb' 0 16))
  | 9 => .ok (.writeUint32 (aField w))
  | _ => .error (.reservedOpcode (opField w))

/-- The number of payload beats that follow a header (R55). -/
def payloadBeats (w : Beat) : Nat :=
  if opField w = 0x05 ∧ presentField w then (aField w).toNat else 0

/-- A header of format H with `RSV` = 0 (R49). -/
def headerBeat (op : Byte) (p : Bool) (id : WopId) (a b : Word) : Beat :=
  (b ++ a ++ id ++ (0 : BitVec 3) ++ BitVec.ofBool p ++ op : BitVec (32 + 32 + 4 + 3 + 1 + 8))

/-- A payload beat of format P with its ignored bits 0 (R50). -/
def payloadBeat (ch : Byte) : Beat := ch.setWidth 80

/-- The header of a command, all unused fields 0 (R49, R53, R54, R62). -/
def encode : Instr → Beat
  | .openChannel baudRate (some id) writeDurationNs => headerBeat 0x01 true id baudRate writeDurationNs
  | .openChannel baudRate none writeDurationNs => headerBeat 0x01 false 0 baudRate writeDurationNs
  | .closeChannel => headerBeat 0x02 false 0 0 0
  | .calibrate => headerBeat 0x03 false 0 0 0
  | .writeByte byte => headerBeat 0x04 false 0 (byte.setWidth 32) 0
  | .writeString textPresent len width => headerBeat 0x05 textPresent 0 len width
  | .writeDecimal value width => headerBeat 0x06 false 0 value width
  | .writeUint8 value => headerBeat 0x07 false 0 (value.setWidth 32) 0
  | .writeUint16 value => headerBeat 0x08 false 0 (value.setWidth 32) 0
  | .writeUint32 value => headerBeat 0x09 false 0 value 0

/-- The header beat of the opcode table's numbering: bit 0 of `w` is bit 0 of the beat (R49), and every bit above
`nbits` is 0. A beat is a parallel word with no byte order of its own (R40); the payload beats of a WRITE_STRING are
later beats and no part of the header. -/
def tableBeat (nbits w : Nat) : Beat := BitVec.ofNat 80 (w % 2 ^ nbits)

/-- The instruction the decoder reads from a word of the opcode table. -/
def decodeTableWord (nbits w : Nat) : Option Instr :=
  match decode (tableBeat nbits w) with
  | .ok i => some i
  | .error _ => none

end Sys2Proof
end

