-- ==== Sys2Proof/Config.lean ====
section
/-! DEFINITION. The parameters of 00_scope.md rule R5, fixed for the life of the engine (R6), and the one
free value of the reference sink. An OPEN parameter has no value in the spec: it is a constant with no body, so
that every claim holds for every value of it (R6; log entry 3). -/

namespace Sys2Proof.Config

/-- `NS_PER_SEC`, nanoseconds per second, FIXED (R5). -/
def nsPerSec : Nat := 1000000000

/-- `CAL_PATTERN`, FIXED (R5). -/
def calPattern : Byte := 0x55

/-- `CAL_WPB` less one: any number from 0 to 2^32 - 2, so that `CAL_WPB` is at least 1 (R5). -/
opaque calWpbLessOne : Fin 4294967295

/-- The word that holds `CAL_IDLE_WRITES` (R5). -/
opaque calIdleWord : Word

/-- The word that holds `CAL_BYTE_COUNT` (R5). -/
opaque calByteWord : Word

/-- `CAL_WPB`, the calibration bit width in raw writes, OPEN, from 1 to 2^32 - 1 (R5). -/
def calWpb : Nat := calWpbLessOne.val + 1

/-- `CAL_IDLE_WRITES`, the raw Idle writes of the preamble and again of the postamble, OPEN, from 0 to
2^32 - 1 (R5). -/
def calIdleWrites : Nat := calIdleWord.toNat

/-- `CAL_BYTE_COUNT`, the count of pattern bytes, OPEN, from 0 to 2^32 - 1 (R5). -/
def calByteCount : Nat := calByteWord.toNat

/-- The level of the line of an identifier before anything was written to it: "initially unspecified" (R44). It
belongs to the sink, not to the engine (R29); a free value (log entry 12). -/
opaque initialLine : WopId → Bit

end Sys2Proof.Config
end

