-- ==== Sys2Proof/Machine/State.lean ====
section
/-! DEFINITION. The state of the engine as 10_state.md gives it (R13 to R17, R23 to R25), and beside it, under names
of their own, the levels and the stream its environment drives and the trace of what it did. All of it plain data. -/

namespace Sys2Proof.Machine

/-- A write event `(id, b)`: one invocation of the write operation still to be made (R9, R23). -/
structure WriteEvent where
  id : WopId
  bit : Bit
deriving DecidableEq, Repr

/-- The progress of a WRITE_STRING packet between its header and its last payload beat (R25). -/
structure StrProgress where
  /-- payload beats still to come -/
  remaining : Word
  /-- characters of this packet already taken -/
  written : Word
  /-- the header's `width` operand -/
  width : Word
deriving DecidableEq, Repr

/-- An observable event (R11). -/
inductive Event where
  /-- a beat taken on the command port -/
  | cmd (w : Beat)
  /-- one write invocation -/
  | wr (id : WopId) (b : Bit)
  /-- the response of an OPEN -/
  | rsp (ok : Bool)
  /-- a reset -/
  | reset
deriving DecidableEq, Repr

/-- The input levels one step samples (R32, R33). Not state of the engine: log entry 1. -/
structure Pins where
  /-- `rst` = 1: reset at this step (R135) -/
  rst : Bool
  /-- `cmd_valid`: the command source offers its next beat, if it has one (R33) -/
  cmdValid : Bool
  /-- `wr_ready`: the sink completes the invocation offered (R33) -/
  wrReady : Bool
deriving DecidableEq, Repr

/-- The state: the six stored elements of R13, then the environment and the observation (log entries 1 and 2). -/
structure State where
  /-- `IS_OPEN` (R15) -/
  isOpen : Bool
  /-- `WOP` (R16) -/
  wop : Option WopId
  /-- `WPB` (R17) -/
  wpb : Word
  /-- `PEND`, oldest first (R23) -/
  pend : List WriteEvent
  /-- `RSP_PEND` (R24) -/
  rspPend : Option Bool
  /-- `STR` (R25) -/
  str : Option StrProgress
  /-- the levels the next step samples -/
  pins : Pins
  /-- the levels the steps after it sample, in order; the last level stays when the list ends -/
  pinsLater : List Pins
  /-- the beats the command source has not yet transferred, first to last (R31) -/
  cmdIn : List Beat
  /-- the observable events so far, oldest first (R11) -/
  trace : List Event
deriving DecidableEq, Repr

/-- Faults: none. "the engine raises no exception and takes no trap" (R9, R124); a hang is no fault (R45, R152).
The type has no constructor, so that no step can answer one (log entry 11): safe, since nothing the spec describes
stops the engine. -/
inductive Fault where
deriving DecidableEq, Repr

/-- Refusals. -/
inductive Refusal where
  /-- An instruction with no meaning yet. Raised only by an arm of `exec`; no arm raises it, since every command has
  its meaning. Safe: a refused step proves nothing. -/
  | notModelled (mnemonic : String)
deriving DecidableEq, Repr

/-- The levels of a quiet environment: no reset, the source offers, the sink is ready (the always-ready reference
sink of R44). The model's choice for the state after reset: log entry 1. -/
def Pins.quiet : Pins := { rst := false, cmdValid := true, wrReady := true }

/-- The machine after reset (R28, R136), in a quiet environment with no beat offered yet (log entries 1 and 2). -/
def State.reset : State :=
  { isOpen := false
    wop := none
    wpb := 0
    pend := []
    rspPend := none
    str := none
    pins := Pins.quiet
    pinsLater := []
    cmdIn := []
    trace := [] }

end Sys2Proof.Machine
end

