-- ==== Sys2Proof/Machine/Flags.lean ====
section
/-! DEFINITION. What the engine shows of its state: the busy condition and `cmd_ready` (10_state.md R26), the status
outputs (R27) and the outputs of the write and response ports (20_memory.md R32, R36, R38). `IS_OPEN` is the only
status flag, and no command computes another (R22). All are functions of the state, read without effect (R27,
R37); only the response pulse also depends on a level, `rst` (60_exceptions.md R123). -/

namespace Sys2Proof.Machine

/-- `BUSY` (R26). -/
def State.busy (s : State) : Bool := !s.pend.isEmpty || s.rspPend.isSome || s.str.isSome

/-- `cmd_ready` (R26): a beat can be taken. -/
def State.cmdReady (s : State) : Bool := s.pend.isEmpty && s.rspPend.isNone

/-- `wr_valid`: the engine invokes the write operation exactly while `PEND` is not empty (R36). -/
def State.wrValid (s : State) : Bool := !s.pend.isEmpty

/-- `wr_bit`: the head of `PEND` while `wr_valid` is 1; no value while it is 0 (R36; log entry 9). -/
def State.wrBit (s : State) : Option Bit := s.pend.head?.map (·.bit)

/-- `wr_id`, likewise (R36; log entry 9). -/
def State.wrId (s : State) : Option WopId := s.pend.head?.map (·.id)

/-- `rsp_valid`: the pulse of the response step (R33, R38). In a cycle with `rst` = 1 no pulse is given (60_exceptions.md
R123), so this output alone depends on an input level; `wr_valid` and `cmd_ready` do not (R26, R36; log entry 16). -/
def State.rspValid (s : State) : Bool := !s.pins.rst && s.pend.isEmpty && s.rspPend.isSome

/-- `rsp_ok` while `rsp_valid` is 1; no value while it is 0 (R38; log entry 9). -/
def State.rspOk (s : State) : Option Bool := if s.rspValid then s.rspPend else none

/-- `st_open` (R27). -/
def State.stOpen (s : State) : Bool := s.isOpen

/-- `st_wop_present` (R27). -/
def State.stWopPresent (s : State) : Bool := s.wop.isSome

/-- `st_wop_id`, 0 when no write operation is held (R27). -/
def State.stWopId (s : State) : WopId := s.wop.getD 0

/-- `st_wpb` (R27): the operational width, also during CALIBRATE (R113, R148). -/
def State.stWpb (s : State) : Word := s.wpb

/-- `st_busy` (R27). -/
def State.stBusy (s : State) : Bool := s.busy

end Sys2Proof.Machine
end

