-- ==== Sys2Proof/Machine/Operands.lean ====
section
/-! DEFINITION. The pure functions of operands that the command rules use: the derived functions of 00_scope.md rule
R10, the two divisions of OPEN (40_channel.md R69), the texts of 43_formatters.md and the calibration sequence of
44_calibration.md rule R112. None reads the state. -/

namespace Sys2Proof.Machine

/-- `BitWrite(b, w)`: `w` raw writes of `b` (R10, R79). -/
def bitWrite (b : Bit) (w : Nat) : List Bit := List.replicate w b

/-- `FrameBits(v)`: start, data bits 0 to 7, stop (R85). -/
def frameBits (v : Byte) : List Bit :=
  [space, v.getLsbD 0, v.getLsbD 1, v.getLsbD 2, v.getLsbD 3, v.getLsbD 4, v.getLsbD 5, v.getLsbD 6, v.getLsbD 7, mark]

/-- `Frame(v, w)`: the ten bit-writes of a Symbol in order (R10, R85). -/
def frame (v : Byte) (w : Nat) : List Bit := (frameBits v).flatMap (bitWrite · w)

/-- `Bytes(l, w)`: the frames of a byte list, first to last (R10). -/
def bytes (l : List Byte) (w : Nat) : List Bit := l.flatMap (frame · w)

/-- Are the operands of OPEN valid, the write operation aside (R68). -/
def openOperandsValid (baudRate writeDurationNs : Word) : Bool :=
  decide (baudRate ≠ 0) && decide (writeDurationNs ≠ 0)

/-- `nsec_per_bit`: the first unsigned division of OPEN (R67, R69). -/
def nsecPerBit (baudRate : Word) : Nat := Config.nsPerSec / baudRate.toNat

/-- The new `WPB` of a successful OPEN: the second unsigned division (R67, R69). -/
def writesPerBit (baudRate writeDurationNs : Word) : Word :=
  BitVec.ofNat 32 (nsecPerBit baudRate / writeDurationNs.toNat)

/-- ASCII space (R91). -/
def asciiSpace : Byte := 0x20

/-- ASCII hyphen-minus (R91). -/
def asciiMinus : Byte := 0x2D

/-- ASCII `0`, the base of the decimal digits (R91). -/
def asciiZero : Byte := 0x30

/-- The padding spaces that bring `n` bytes up to `width`: `max(0, width - n)`, without wrap-around (R95, R99). -/
def padding (width : Word) (n : Nat) : List Byte := List.replicate (width.toNat - n) asciiSpace

/-- The decimal digit `d` as a character (R91). -/
def decDigit (d : Nat) : Byte := asciiZero + BitVec.ofNat 8 d

/-- The decimal digits of `m`, most significant first, by repeated division by 10 (R97); `fuel` bounds their number,
and `m < 10` ends them, so that 0 gives one digit. -/
def decDigits : Nat → Nat → List Byte
  | 0, _ => []
  | fuel + 1, m => if m < 10 then [decDigit m] else decDigits fuel (m / 10) ++ [decDigit (m % 10)]

/-- The magnitude of a signed 32-bit value, formed without overflow: 2_147_483_648 for the most negative one (R97,
R98). -/
def magnitude (v : Word) : Nat := v.toInt.natAbs

/-- `DecStr(v)` (R97). Ten digits hold every magnitude (R100). -/
def decStr (v : Word) : List Byte :=
  if v.toInt < 0 then asciiMinus :: decDigits 10 (magnitude v) else decDigits 10 (magnitude v)

/-- What WRITE_DECIMAL sends: leading spaces, then the sign, then the digits (R96, R99). -/
def decimalText (value width : Word) : List Byte :=
  padding width (decStr value).length ++ decStr value

/-- `HexDigit(n)` of a nibble, upper case (R91, R103). -/
def hexDigit (n : BitVec 4) : Byte :=
  if n.toNat < 10 then 0x30 + n.setWidth 8 else 0x41 + (n.setWidth 8 - 10)

/-- `Hex2(v)`: the most significant nibble first (R103). -/
def hex2 (v : Byte) : List Byte := [hexDigit (v.extractLsb' 4 4), hexDigit (v.extractLsb' 0 4)]

/-- What WRITE_UINT16 sends (R104). -/
def hex4 (v : Half) : List Byte := hex2 (v.extractLsb' 8 8) ++ hex2 (v.extractLsb' 0 8)

/-- What WRITE_UINT32 sends (R105). -/
def hex8 (v : Word) : List Byte :=
  hex2 (v.extractLsb' 24 8) ++ hex2 (v.extractLsb' 16 8) ++ hex2 (v.extractLsb' 8 8) ++ hex2 (v.extractLsb' 0 8)

/-- `CalSeq` for given parameters: raw Idle writes, the pattern Symbols at the calibration width, the same count of
raw Idle writes (R112). -/
def calSeq (calWpb calIdleWrites calByteCount : Nat) : List Bit :=
  List.replicate calIdleWrites mark
    ++ bytes (List.replicate calByteCount Config.calPattern) calWpb
    ++ List.replicate calIdleWrites mark

end Sys2Proof.Machine
end

