-- ==== Sys2Proof/Machine/Ops.lean ====
section
/-! DEFINITION. The named operations on the state: emission (00_scope.md R9, 41_bit_writer.md R77, R79), the
response (R9), the channel registers (10_state.md R15 to R17), the input levels and the beat stream, and the steps
of the ports that run no command (20_memory.md R36, R38, 70_reset_and_hazards.md R135 to R137). The engine takes no
exception (60_exceptions.md R124), so there is no entry and no return: the one failure it reports is `respond
false`. -/

namespace Sys2Proof.Machine

/-- `EmitAll(l)`: append the write events of the Bits of `l`, in order, with the identifier held in `WOP` (R9, R16).
Without a write operation there is nothing to invoke and nothing is appended; R77's precondition excludes it (log
entry 5). -/
def State.emitAll (s : State) (l : List Bit) : State :=
  match s.wop with
  | none => s
  | some id => { s with pend := s.pend ++ l.map (fun b => { id := id, bit := b }) }

/-- `Emit(b)`, the raw write: one write event (R9, R77). -/
def State.rawWrite (s : State) (b : Bit) : State := s.emitAll [b]

/-- `EmitAll` behind the gate of `IS_OPEN`: "no write of any kind occurs while `is_open` is false" (R15, R80). -/
def State.emitIfOpen (s : State) (l : List Bit) : State := if s.isOpen then s.emitAll l else s

/-- The bit-write of the Bit Writer: `w` raw writes of `b` when open, no effect when closed (R79). -/
def State.bitWrite (s : State) (b : Bit) (w : Nat) : State := s.emitIfOpen (Machine.bitWrite b w)

/-- Send a byte list through the Byte Framer at the width `WPB` (R83, R90). -/
def State.sendBytes (s : State) (l : List Byte) : State := s.emitIfOpen (bytes l s.wpb.toNat)

/-- `Respond(ok)`: schedule the response of OPEN (R9). -/
def State.respond (s : State) (ok : Bool) : State := { s with rspPend := some ok }

/-- The registers a successful OPEN writes (R67). -/
def State.setChannel (s : State) (id : WopId) (wpb : Word) : State :=
  { s with isOpen := true, wop := some id, wpb := wpb }

/-- The registers CLOSE writes; `WPB` keeps its value (R73). -/
def State.clearChannel (s : State) : State := { s with isOpen := false, wop := none }

/-- Write `STR` (R25). -/
def State.setStr (s : State) (p : Option StrProgress) : State := { s with str := p }

/-- Record an observable event (R11). -/
def State.observe (s : State) (e : Event) : State := { s with trace := s.trace ++ [e] }

/-- The levels the next step samples; the last level stays when no later one is given (log entry 1). -/
def State.advancePins (s : State) : State :=
  match s.pinsLater with
  | [] => s
  | p :: ps => { s with pins := p, pinsLater := ps }

/-- A step at which nothing is enabled: the engine waits (R33, R45, R134, R152; log entry 10). -/
def waitStep (s : State) : Host.Outcome State Fault Refusal := .next s.advancePins

/-- The engine's elements at their reset values (R136); the stream of the command source and everything outside the
engine are untouched (R138, R139). -/
def State.resetEngine (s : State) : State :=
  { s with isOpen := false, wop := none, wpb := 0, pend := [], rspPend := none, str := none }

/-- The reset step: pending events and responses are dropped, an offered beat is not taken (R123, R135, R137). -/
def resetStep (s : State) : Host.Outcome State Fault Refusal :=
  .next (s.resetEngine.observe .reset).advancePins

/-- The write-port step: the head of `PEND` leaves when the sink is ready; otherwise the engine holds it (R33,
R36). -/
def writePortStep (e : WriteEvent) (rest : List WriteEvent) (s : State) : Host.Outcome State Fault Refusal :=
  if s.pins.wrReady then .next (({ s with pend := rest }).observe (.wr e.id e.bit)).advancePins
  else waitStep s

/-- The response step (R38). -/
def responseStep (ok : Bool) (s : State) : Host.Outcome State Fault Refusal :=
  .next (({ s with rspPend := none }).observe (.rsp ok)).advancePins

/-- Take the beat `w` from the command port, leaving `rest` in the stream (R35). -/
def State.takeBeat (s : State) (w : Beat) (rest : List Beat) : State :=
  (({ s with cmdIn := rest }).observe (.cmd w)).advancePins

/-- The beat the command source offers at this step, and the state once it is taken (R33, R35). -/
def fetchBeat (s : State) : Option (Beat × State) :=
  if s.pins.cmdValid then
    match s.cmdIn with
    | [] => none
    | w :: rest => some (w, s.takeBeat w rest)
  else none

/-- A header with a reserved opcode is a complete packet and does nothing (R58). -/
def ignoreHeader (_ : DecodeError) (s : State) : Host.Outcome State Fault Refusal := .next s

end Sys2Proof.Machine
end

