-- ==== Sys2Proof/Machine/ByteFramer.lean ====
section
/-! DEFINITION. The Byte Framer, 42_byte_framer.md: WRITE_BYTE. -/

namespace Sys2Proof.Machine

/-- WRITE_BYTE (R84): one Symbol when open, nothing when closed (R87). -/
def execWriteByte (byte : Byte) (s : State) : Host.Outcome State Fault Refusal := .next (s.sendBytes [byte])

end Sys2Proof.Machine
end

