-- ==== Sys2Proof/Machine/Calibration.lean ====
section
/-! DEFINITION. The Calibration Generator, 44_calibration.md: CALIBRATE. -/

namespace Sys2Proof.Machine

/-- CALIBRATE (R110): the sequence of R112 when open, nothing when closed (R111). The calibration width is passed to
the frames; `WPB` is not written (R113). -/
def execCalibrate (s : State) : Host.Outcome State Fault Refusal :=
  .next (s.emitIfOpen (calSeq Config.calWpb Config.calIdleWrites Config.calByteCount))

end Sys2Proof.Machine
end

