-- ==== Sys2Proof/Machine/Channel.lean ====
section
/-! DEFINITION. Channel management, 40_channel.md: OPEN and CLOSE. -/

namespace Sys2Proof.Machine

/-- OPEN (R67). Invalid operands: `rsp(0)` and no other effect (R68). Otherwise the registers, one idle bit-write at
the new width to the new identifier (R70), and `rsp(1)`, in whatever state the channel was (R72). -/
def execOpen (baudRate : Word) (wop : Option WopId) (writeDurationNs : Word) (s : State) :
    Host.Outcome State Fault Refusal :=
  match wop with
  | none => .next (s.respond false)
  | some id =>
    if openOperandsValid baudRate writeDurationNs then
      let s' := s.setChannel id (writesPerBit baudRate writeDurationNs)
      .next ((s'.bitWrite mark s'.wpb.toNat).respond true)
    else .next (s.respond false)

/-- CLOSE (R73): no response and no write event; harmless when already closed (R74). -/
def execClose (s : State) : Host.Outcome State Fault Refusal := .next s.clearChannel

end Sys2Proof.Machine
end

