-- ==== Sys2Proof/Machine/Formatters.lean ====
section
/-! DEFINITION. The Formatters, 43_formatters.md. Each turns its operands into bytes and sends them through the Byte
Framer when the channel is open (R90). -/

namespace Sys2Proof.Machine

/-- WRITE_STRING, the header beat (R93): a present, non-empty text starts a packet; an absent or empty one is over at
once and sends nothing, whatever `width` is (R94). -/
def execWriteString (textPresent : Bool) (len width : Word) (s : State) : Host.Outcome State Fault Refusal :=
  if textPresent && decide (len ≠ 0) then
    .next (s.setStr (some { remaining := len, written := 0, width := width }))
  else .next s

/-- WRITE_STRING, a payload beat (R93): the frame of its character, and after the last one the padding (R95). The
beat is consumed also when the channel is closed (R55). Both counts are 32 bits wide (R25) and wrap: `remaining` = 0 goes
to 2^32 - 1, and `written` = 2^32 - 1 goes to 0, so that a last beat there pads the full `width`. No run reaches these two
cases, and what happens in them is the model's choice (log entry 7, DEDUCED). -/
def execPayload (p : StrProgress) (w : Beat) (s : State) : Host.Outcome State Fault Refusal :=
  let s' := s.sendBytes [chField w]
  let remaining := p.remaining - 1
  let written := p.written + 1
  if remaining = 0 then .next ((s'.sendBytes (padding p.width written.toNat)).setStr none)
  else .next (s'.setStr (some { remaining := remaining, written := written, width := p.width }))

/-- WRITE_DECIMAL (R96). -/
def execWriteDecimal (value width : Word) (s : State) : Host.Outcome State Fault Refusal :=
  .next (s.sendBytes (decimalText value width))

/-- WRITE_UINT8 (R102). -/
def execWriteUint8 (value : Byte) (s : State) : Host.Outcome State Fault Refusal := .next (s.sendBytes (hex2 value))

/-- WRITE_UINT16 (R104). -/
def execWriteUint16 (value : Half) (s : State) : Host.Outcome State Fault Refusal := .next (s.sendBytes (hex4 value))

/-- WRITE_UINT32 (R105). -/
def execWriteUint32 (value : Word) (s : State) : Host.Outcome State Fault Refusal := .next (s.sendBytes (hex8 value))

end Sys2Proof.Machine
end

