-- ==== Sys2Proof/Machine/Dispatch.lean ====
section
/-! DEFINITION. The effect of a decoded header at the command-port step (20_memory.md R35): one arm per command of
30_encoding.md rule R56. -/

namespace Sys2Proof.Machine

def exec (i : Instr) (s : State) : Host.Outcome State Fault Refusal :=
  match i with
  | .openChannel baudRate wop writeDurationNs => Sys2Proof.Machine.execOpen baudRate wop writeDurationNs s
  | .closeChannel => Sys2Proof.Machine.execClose s
  | .calibrate => Sys2Proof.Machine.execCalibrate s
  | .writeByte byte => Sys2Proof.Machine.execWriteByte byte s
  | .writeString textPresent len width => Sys2Proof.Machine.execWriteString textPresent len width s
  | .writeDecimal value width => Sys2Proof.Machine.execWriteDecimal value width s
  | .writeUint8 value => Sys2Proof.Machine.execWriteUint8 value s
  | .writeUint16 value => Sys2Proof.Machine.execWriteUint16 value s
  | .writeUint32 value => Sys2Proof.Machine.execWriteUint32 value s

end Sys2Proof.Machine
end

