-- ==== Sys2Proof/Machine/Step.lean ====
section
/-! DEFINITION. One step of the engine: the step relation of 20_memory.md over the levels its environment drives.
At most one of the port steps is enabled in a state (60_exceptions.md R123), and reset wins over all of them. -/

namespace Sys2Proof.Machine

/-- The command-port step with the beat `w` taken and `s` the state after it (R35): a payload beat while a
WRITE_STRING packet is in progress, a header otherwise (R48). -/
def beatStep (w : Beat) (s : State) : Host.Outcome State Fault Refusal :=
  match s.str with
  | some p => execPayload p w s
  | none =>
    match decode w with
    | .ok i => exec i s
    | .error e => ignoreHeader e s

/-- One step: reset (R135), else the write port (R36), else the response (R38), else the command port (R35), else
nothing is enabled and the engine waits. -/
def step (s : State) : Host.Outcome State Fault Refusal :=
  if s.pins.rst then resetStep s
  else
    match s.pend with
    | e :: rest => writePortStep e rest s
    | [] =>
      match s.rspPend with
      | some ok => responseStep ok s
      | none =>
        match fetchBeat s with
        | some (w, s') => beatStep w s'
        | none => waitStep s

/-- The state whose very next step takes the given header and runs it: the header is the next beat of the command
source, which offers it, with no reset at this step, and the engine is where it takes a header (nothing pending, no
packet in progress). From `State.reset` only the beat stream changes. Log entry 8. -/
def State.withFetchWord (s : State) (nbits w : Nat) : State :=
  { s with
    pend := []
    rspPend := none
    str := none
    pins := { s.pins with rst := false, cmdValid := true }
    cmdIn := tableBeat nbits w :: s.cmdIn }

end Sys2Proof.Machine
end

