-- ==== Sys2Proof/Machine/Assembly.lean ====
section
/-! DEFINITION. Commands as the source calls them, with the text of WRITE_STRING in one piece: their assembly to
beats (30_encoding.md R62) and the textual syntax of rule R61. The details R61 leaves open are log entry 14. -/

namespace Sys2Proof.Machine

/-- One operation of the source with its operands (R56). A packet, header and payload beats together, is one
command (R48). -/
inductive Command where
  | openChannel (baudRate : Word) (wop : Option WopId) (writeDurationNs : Word)
  | closeChannel
  | calibrate
  | writeByte (byte : Byte)
  /-- `text` is `none` when absent (R51) -/
  | writeString (text : Option (List Byte)) (width : Word)
  | writeDecimal (value : Word) (width : Word)
  | writeUint8 (value : Byte)
  | writeUint16 (value : Half)
  | writeUint32 (value : Word)
deriving DecidableEq, Repr

/-- A text is as long as `LEN` can say (R53). -/
def Command.wf : Command → Bool
  | .openChannel _ _ _ => true
  | .closeChannel => true
  | .calibrate => true
  | .writeByte _ => true
  | .writeString none _ => true
  | .writeString (some text) _ => decide (text.length < 2 ^ 32)
  | .writeDecimal _ _ => true
  | .writeUint8 _ => true
  | .writeUint16 _ => true
  | .writeUint32 _ => true

/-- The header of a command (R62). -/
def Command.header : Command → Instr
  | .openChannel baudRate wop writeDurationNs => .openChannel baudRate wop writeDurationNs
  | .closeChannel => .closeChannel
  | .calibrate => .calibrate
  | .writeByte byte => .writeByte byte
  | .writeString none width => .writeString false 0 width
  | .writeString (some text) width => .writeString true (BitVec.ofNat 32 text.length) width
  | .writeDecimal value width => .writeDecimal value width
  | .writeUint8 value => .writeUint8 value
  | .writeUint16 value => .writeUint16 value
  | .writeUint32 value => .writeUint32 value

/-- The characters that follow the header as payload beats (R55, R62). -/
def Command.payload : Command → List Byte
  | .writeString (some text) _ => text
  | .writeString none _ => []
  | .openChannel _ _ _ => []
  | .closeChannel => []
  | .calibrate => []
  | .writeByte _ => []
  | .writeDecimal _ _ => []
  | .writeUint8 _ => []
  | .writeUint16 _ => []
  | .writeUint32 _ => []

/-- Assembling a command to beats (R62). -/
def Command.beats (c : Command) : List Beat := encode c.header :: c.payload.map payloadBeat

/-- The beats of a command list, the commands one after the other. -/
def assemble (cs : List Command) : List Beat := cs.flatMap Command.beats

/-! ### The textual syntax (R61) -/

/-- The value of a digit character, either case. -/
def digitValue (c : Char) : Nat :=
  let n := c.toNat
  if 48 ≤ n ∧ n ≤ 57 then n - 48
  else if 65 ≤ n ∧ n ≤ 70 then n - 55
  else if 97 ≤ n ∧ n ≤ 102 then n - 87
  else 16

/-- A digit string in a base, most significant first, after the value read so far. -/
def digitsFrom (base : Nat) : Nat → List Char → Option Nat
  | n, [] => some n
  | n, c :: cs => if digitValue c < base then digitsFrom base (n * base + digitValue c) cs else none

/-- A non-empty digit string. -/
def digits (base : Nat) (cs : List Char) : Option Nat := if cs.isEmpty then none else digitsFrom base 0 cs

/-- A number: decimal, or hexadecimal with `0x` (R61). -/
def number (cs : List Char) : Option Nat :=
  match cs with
  | '0' :: 'x' :: rest => digits 16 rest
  | _ => digits 10 cs

/-- A number of `n` bits. -/
def unsignedNumber (n : Nat) (cs : List Char) : Option (BitVec n) :=
  match number cs with
  | some v => if v < 2 ^ n then some (BitVec.ofNat n v) else none
  | none => none

/-- A signed 32-bit number as its two's complement (R62). -/
def signedNumber (cs : List Char) : Option Word :=
  match cs with
  | '-' :: rest =>
    match number rest with
    | some v => if v ≤ 2 ^ 31 then some (-(BitVec.ofNat 32 v)) else none
    | none => none
  | _ =>
    match number cs with
    | some v => if v < 2 ^ 31 then some (BitVec.ofNat 32 v) else none
    | none => none

/-- A write operation: `wop0` to `wop15`, or `none` (R61). -/
def writeOperation (cs : List Char) : Option (Option WopId) :=
  match cs with
  | 'w' :: 'o' :: 'p' :: rest =>
    match digits 10 rest with
    | some n => if n < 16 then some (some (BitVec.ofNat 4 n)) else none
    | none => none
  | ['n', 'o', 'n', 'e'] => some none
  | _ => none

/-- Where the reader of a quoted text stands: between characters, after a backslash, after `\x`, after its first
digit. -/
inductive TextMode where
  | plain
  | backslash
  | first
  | second (high : Nat)
deriving DecidableEq, Repr

/-- The characters up to the closing quote, which must be the last: ASCII, or `\xHH` for an arbitrary byte (R61). 34
is the double quote, 92 the backslash, 120 the letter x. -/
def quotedText : TextMode → List Char → Option (List Byte)
  | _, [] => none
  | .plain, c :: cs =>
    if c.toNat = 34 then (if cs.isEmpty then some [] else none)
    else if c.toNat = 92 then quotedText .backslash cs
    else if c.toNat < 128 then (quotedText .plain cs).map (BitVec.ofNat 8 c.toNat :: ·)
    else none
  | .backslash, c :: cs => if c.toNat = 120 then quotedText .first cs else none
  | .first, c :: cs => if digitValue c < 16 then quotedText (.second (digitValue c)) cs else none
  | .second high, c :: cs =>
    if digitValue c < 16 then (quotedText .plain cs).map (BitVec.ofNat 8 (16 * high + digitValue c) :: ·) else none

/-- A text operand: quoted, or `absent` (R61). -/
def textOperand (cs : List Char) : Option (Option (List Byte)) :=
  match cs with
  | ['a', 'b', 's', 'e', 'n', 't'] => some none
  | c :: rest => if c.toNat = 34 then (quotedText .plain rest).map some else none
  | [] => none

/-- Drop leading and trailing spaces. -/
def trimSpaces (cs : List Char) : List Char :=
  ((cs.dropWhile (· = ' ')).reverse.dropWhile (· = ' ')).reverse

/-- Split at the commas outside quotes, `inQuotes` telling which side of a quote the reader is on and `acc` holding
the operand read so far, backwards. -/
def splitOperands (inQuotes : Bool) (acc : List Char) : List Char → List (List Char)
  | [] => [trimSpaces acc.reverse]
  | c :: cs =>
    if c.toNat = 34 then splitOperands (!inQuotes) (c :: acc) cs
    else if c = ',' ∧ inQuotes = false then trimSpaces acc.reverse :: splitOperands false [] cs
    else splitOperands inQuotes (c :: acc) cs

/-- A command from its mnemonic and its operands in the order of the source's call (R61). -/
def commandOf (mnemonic : String) (operands : List (List Char)) : Option Command :=
  match operands with
  | [[]] =>
    if mnemonic = "CLOSE" then some .closeChannel
    else if mnemonic = "CALIBRATE" then some .calibrate
    else none
  | [x] =>
    if mnemonic = "WRITE_BYTE" then (unsignedNumber 8 x).map .writeByte
    else if mnemonic = "WRITE_UINT8" then (unsignedNumber 8 x).map .writeUint8
    else if mnemonic = "WRITE_UINT16" then (unsignedNumber 16 x).map .writeUint16
    else if mnemonic = "WRITE_UINT32" then (unsignedNumber 32 x).map .writeUint32
    else none
  | [x, y] =>
    if mnemonic = "WRITE_STRING" then
      match textOperand x, unsignedNumber 32 y with
      | some text, some width => some (.writeString text width)
      | _, _ => none
    else if mnemonic = "WRITE_DECIMAL" then
      match signedNumber x, unsignedNumber 32 y with
      | some value, some width => some (.writeDecimal value width)
      | _, _ => none
    else none
  | [x, y, z] =>
    if mnemonic = "OPEN" then
      match unsignedNumber 32 x, writeOperation y, unsignedNumber 32 z with
      | some baudRate, some wop, some writeDurationNs => some (.openChannel baudRate wop writeDurationNs)
      | _, _, _ => none
    else none
  | _ => none

/-- A command in the textual syntax: the mnemonic, a space, the operands separated by commas (R61). -/
def parseCommand (cs : List Char) : Option Command :=
  let mnemonic := cs.takeWhile (· ≠ ' ')
  commandOf (String.ofList mnemonic) (splitOperands false [] (cs.drop mnemonic.length))

end Sys2Proof.Machine
end

