-- ==== Sys2Proof/Machine/Sink.lean ====
section
/-! DEFINITION. The reference sink of 20_memory.md rule R44, which is not part of the engine: what a sink that is
always ready holds after a trace, and the decoder that reads Symbols from its log. -/

namespace Sys2Proof.Machine

/-- `log[id]`: the Bits written to an identifier, oldest first (R44). -/
def sinkLog (id : WopId) (trace : List Event) : List Bit :=
  trace.filterMap fun e =>
    match e with
    | .wr id' b => if id' = id then some b else none
    | .cmd _ => none
    | .rsp _ => none
    | .reset => none

/-- `line[id]`: the last Bit written to an identifier, and a level that is not specified before the first one (R44;
log entry 12). -/
def sinkLine (id : WopId) (trace : List Event) : Bit :=
  (sinkLog id trace).getLast?.getD (Config.initialLine id)

/-- One group of `w` equal Bits at the front of a log, and the rest (R44). -/
def takeGroup (w : Nat) (log : List Bit) : Option (Bit × List Bit) :=
  match log with
  | [] => none
  | b :: _ => if log.take w = List.replicate w b then some (b, log.drop w) else none

/-- `n` groups of `w` equal Bits, and the rest. -/
def takeGroups (w : Nat) : Nat → List Bit → Option (List Bit × List Bit)
  | 0, log => some ([], log)
  | n + 1, log =>
    match takeGroup w log with
    | none => none
    | some (b, rest) =>
      match takeGroups w n rest with
      | none => none
      | some (bs, rest') => some (b :: bs, rest')

/-- The byte whose bit 0 is the first of the eight data Bits (R85). -/
def byteOfBits (bs : List Bit) : Byte :=
  BitVec.ofNat 8 (bs.foldr (fun b n => b.toNat + 2 * n) 0)

/-- One Symbol at the front of a log: 10 groups of `w` equal Bits, a Space first and a Mark last (R44, R85). -/
def readSymbol (w : Nat) (log : List Bit) : Option (Byte × List Bit) :=
  match takeGroups w 10 log with
  | some (bs, rest) =>
    if bs.head? = some space ∧ bs.getLast? = some mark then some (byteOfBits ((bs.drop 1).take 8), rest) else none
  | none => none

/-- `n` Symbols that make up a whole log. -/
def readSymbols (w : Nat) : Nat → List Bit → Option (List Byte)
  | 0, log => if log.isEmpty then some [] else none
  | n + 1, log =>
    match readSymbol w log with
    | none => none
    | some (v, rest) => (readSymbols w n rest).map (v :: ·)

end Sys2Proof.Machine
end

