-- ==== Sys2Proof/Safety.lean ====
section
/-! DEFINITION. What a safe run is, in the terms claims use: the invariant of 10_state.md rule R18, what a run has
sent and still owes, the environments of 20_memory.md rule R45, and the effect of a whole command as rules R19, R42,
R92 and R107 give it, apart from any step. -/

namespace Sys2Proof.Machine

/-! ### The invariant -/

/-- The values `WPB` can take (R17): 1_000_000_000, or at most 500_000_000. -/
def wpbReachable (w : Word) : Prop := w.toNat = 1000000000 ∨ w.toNat ≤ 500000000

/-- What holds in every state a run from reset reaches. -/
structure State.Inv (s : State) : Prop where
  /-- the channel is open exactly when a write operation is held (R18 a) -/
  open_iff_wop : s.isOpen = true ↔ s.wop.isSome = true
  /-- every pending event carries the identifier held in `WOP` (R18 e) -/
  pend_id : ∀ e ∈ s.pend, s.wop = some e.id
  /-- a pending success is that of an open channel (R67) -/
  rsp_open : s.rspPend = some true → s.isOpen = true
  /-- a pending failure has no write event before it (R38) -/
  rsp_fail : s.rspPend = some false → s.pend = []
  /-- no packet is in progress while a response is pending (R25, R35, R38) -/
  rsp_str : s.rspPend.isSome = true → s.str = none
  /-- a packet in progress has a payload beat to come (R25), and its counts stay within `LEN` (R53) -/
  str_counts : ∀ p ∈ s.str, 1 ≤ p.remaining.toNat ∧ p.remaining.toNat + p.written.toNat < 2 ^ 32
  /-- `WPB` is a value some OPEN computes (R17) -/
  wpb_reachable : wpbReachable s.wpb

/-! ### Runs and environments -/

/-- `k` steps of the machine, stopping where one does not answer a next state. -/
def run : Nat → State → Host.Outcome State Fault Refusal
  | 0, s => .next s
  | k + 1, s =>
    match step s with
    | .next t => run k t
    | .fault r => .fault r
    | .refused r => .refused r

/-- The engine is idle (R26). -/
def State.idle (s : State) : Bool := !s.busy

/-- No reset at this step or at any later one. -/
def State.noReset (s : State) : Prop := s.pins.rst = false ∧ ∀ p ∈ s.pinsLater, p.rst = false

/-- The levels that stay once the given ones are used up. -/
def State.lastPins (s : State) : Pins := s.pinsLater.getLast?.getD s.pins

/-- The liveness assumption of R45: whatever the levels are for a while, in the end the sink is ready and the source
offers its beats; and no reset comes. -/
def State.fair (s : State) : Prop := s.noReset ∧ s.lastPins = Pins.quiet

/-- The always-ready environment of R44, from this step on. -/
def State.quiet (s : State) : Prop := s.pins = Pins.quiet ∧ s.pinsLater = []

/-- A run has ended: every beat is transferred and the engine is idle (R46). -/
def State.ended (s : State) : Prop := s.cmdIn = [] ∧ s.idle = true

/-! ### What was sent and what is owed -/

/-- The `wr` and `rsp` events of a trace: the observation of a run (R46). -/
def outputs (trace : List Event) : List Event :=
  trace.filter fun e =>
    match e with
    | .wr _ _ => true
    | .rsp _ => true
    | .cmd _ => false
    | .reset => false

/-- A pending write event as it will be seen (R36). -/
def WriteEvent.event (e : WriteEvent) : Event := .wr e.id e.bit

/-- The write events of a Bit list to one identifier (R9). -/
def writeEvents (id : WopId) (l : List Bit) : List WriteEvent := l.map fun b => { id := id, bit := b }

/-- What the engine has still to send: `PEND`, then the response (R36, R38). -/
def State.owed (s : State) : List Event := s.pend.map WriteEvent.event ++ s.rspPend.toList.map Event.rsp

/-- How many resets a trace shows. -/
def resets (trace : List Event) : Nat := trace.count .reset

/-! ### The beat taken -/

/-- The state once the beat `w` is taken and `rest` is left in the stream: the beat is an event, and the next levels
are sampled (R11, R35; log entry 1). Everything else is as before. -/
def State.afterBeat (s : State) (w : Beat) (rest : List Beat) : State :=
  { s with
    cmdIn := rest
    trace := s.trace ++ [.cmd w]
    pins := s.pinsLater.head?.getD s.pins
    pinsLater := s.pinsLater.tail }

/-- The next step takes the beat `w` and leaves `rest`: no reset, nothing pending, the beat offered (R33, R35). -/
def State.takes (s : State) (w : Beat) (rest : List Beat) : Prop :=
  s.pins.rst = false ∧ s.pend = [] ∧ s.rspPend = none ∧ s.pins.cmdValid = true ∧ s.cmdIn = w :: rest

/-! ### Texts as the spec's tables give them -/

/-- The sixteen upper-case hexadecimal characters (R91). -/
def upperHexCharacters : List Byte :=
  [0x30, 0x31, 0x32, 0x33, 0x34, 0x35, 0x36, 0x37, 0x38, 0x39, 0x41, 0x42, 0x43, 0x44, 0x45, 0x46]

/-- A number in `n` hexadecimal characters, the most significant first, with leading zeros (R102, R104, R105). -/
def upperHexText (n v : Nat) : List Byte :=
  (List.range n).map fun k => upperHexCharacters.getD (v / 16 ^ (n - 1 - k) % 16) 0

/-- The decimal digits of a number, the most significant first, without a leading zero, and "0" for 0 (R97). -/
def decimalDigits (m : Nat) : List Byte :=
  if m = 0 then [0x30] else (Nat.digits 10 m).reverse.map fun d => BitVec.ofNat 8 (0x30 + d)

/-- The natural representation of an integer: a minus sign when negative, then the digits of its magnitude (R97). -/
def decimalRepresentation (v : Int) : List Byte :=
  if v < 0 then 0x2D :: decimalDigits v.natAbs else decimalDigits v.natAbs

/-! ### The effect of a whole command -/

/-- The end state of a run: `IS_OPEN`, `WOP`, `WPB` (R46). -/
structure Channel where
  isOpen : Bool
  wop : Option WopId
  wpb : Word
deriving DecidableEq, Repr

/-- The channel of a state (R46). -/
def State.channel (s : State) : Channel := { isOpen := s.isOpen, wop := s.wop, wpb := s.wpb }

/-- The write events of a Bit list on a channel: to the identifier held when open, none when closed (R16, R19). -/
def Channel.writes (ch : Channel) (l : List Bit) : List Event :=
  if ch.isOpen then
    match ch.wop with
    | some id => l.map (Event.wr id)
    | none => []
  else []

/-- The byte list a command sends (R107), WRITE_BYTE among them (R84); OPEN, CLOSE and CALIBRATE send none. -/
def Command.output : Command → List Byte
  | .openChannel _ _ _ => []
  | .closeChannel => []
  | .calibrate => []
  | .writeByte byte => [byte]
  | .writeString none _ => []
  | .writeString (some text) width => if text.isEmpty then [] else text ++ padding width text.length
  | .writeDecimal value width => decimalText value width
  | .writeUint8 value => hex2 value
  | .writeUint16 value => hex4 value
  | .writeUint32 value => hex8 value

/-- The transition table of R19. -/
def Command.next (c : Command) (ch : Channel) : Channel :=
  match c with
  | .openChannel baudRate (some id) writeDurationNs =>
    if openOperandsValid baudRate writeDurationNs then
      { isOpen := true, wop := some id, wpb := writesPerBit baudRate writeDurationNs }
    else ch
  | .openChannel _ none _ => ch
  | .closeChannel => { ch with isOpen := false, wop := none }
  | .calibrate => ch
  | .writeByte _ => ch
  | .writeString _ _ => ch
  | .writeDecimal _ _ => ch
  | .writeUint8 _ => ch
  | .writeUint16 _ => ch
  | .writeUint32 _ => ch

/-- The `wr` and `rsp` events of a command on a channel, in order (R42 b, R42 d). -/
def Command.events (c : Command) (ch : Channel) : List Event :=
  match c with
  | .openChannel baudRate (some id) writeDurationNs =>
    if openOperandsValid baudRate writeDurationNs then
      List.replicate (writesPerBit baudRate writeDurationNs).toNat (.wr id mark) ++ [.rsp true]
    else [.rsp false]
  | .openChannel _ none _ => [.rsp false]
  | .closeChannel => []
  | .calibrate => ch.writes (calSeq Config.calWpb Config.calIdleWrites Config.calByteCount)
  | .writeByte _ => ch.writes (bytes c.output ch.wpb.toNat)
  | .writeString _ _ => ch.writes (bytes c.output ch.wpb.toNat)
  | .writeDecimal _ _ => ch.writes (bytes c.output ch.wpb.toNat)
  | .writeUint8 _ => ch.writes (bytes c.output ch.wpb.toNat)
  | .writeUint16 _ => ch.writes (bytes c.output ch.wpb.toNat)
  | .writeUint32 _ => ch.writes (bytes c.output ch.wpb.toNat)

/-- How many raw writes a command makes on a channel: the table of R154. -/
def Command.rawWrites (c : Command) (ch : Channel) : Nat :=
  match c with
  | .openChannel baudRate (some _) writeDurationNs =>
    if openOperandsValid baudRate writeDurationNs then (writesPerBit baudRate writeDurationNs).toNat else 0
  | .openChannel _ none _ => 0
  | .closeChannel => 0
  | .calibrate =>
    if ch.isOpen then 2 * Config.calIdleWrites + 10 * Config.calWpb * Config.calByteCount else 0
  | .writeByte _ => if ch.isOpen then 10 * ch.wpb.toNat else 0
  | .writeString none _ => 0
  | .writeString (some text) width =>
    if ch.isOpen ∧ text ≠ [] then 10 * ch.wpb.toNat * max text.length width.toNat else 0
  | .writeDecimal value width =>
    if ch.isOpen then 10 * ch.wpb.toNat * max width.toNat (decStr value).length else 0
  | .writeUint8 _ => if ch.isOpen then 20 * ch.wpb.toNat else 0
  | .writeUint16 _ => if ch.isOpen then 40 * ch.wpb.toNat else 0
  | .writeUint32 _ => if ch.isOpen then 80 * ch.wpb.toNat else 0

/-- Is an event a raw write. -/
def Event.isWrite : Event → Bool
  | .wr _ _ => true
  | .cmd _ => false
  | .rsp _ => false
  | .reset => false

/-- The channel after a command list (R42 e). -/
def finalChannel : List Command → Channel → Channel
  | [], ch => ch
  | c :: cs, ch => finalChannel cs (c.next ch)

/-- The events of a command list: the concatenation, in command order (R42 f). -/
def allEvents : List Command → Channel → List Event
  | [], _ => []
  | c :: cs, ch => c.events ch ++ allEvents cs (c.next ch)

/-! ### Packet streams -/

/-- Does a beat stream, of which the first `n` beats are payload, end where a header would stand: every announced
payload beat is there (R41, R55). -/
def packetsComplete : Nat → List Beat → Bool
  | n, [] => decide (n = 0)
  | 0, w :: rest => packetsComplete (payloadBeats w) rest
  | n + 1, _ :: rest => packetsComplete n rest

end Sys2Proof.Machine
end

