-- ==== Sys2Proof/Certificates/Slice0/Obligations.lean ====
section
/-! DEFINITION. The statements for the provers. Each conclusion of the form `exec i s = .next { s with … }` is at once
the instruction's completion, its result and its frame: every field not named is unchanged. The engine has no
addressable memory (R31), so no frame speaks of memory. -/

open Sys2Proof Sys2Proof.Machine

/-! ### Reset -/

/-- R28: the state after reset, its outputs among them. The last three clauses are the model's choice (log entry 9,
DEDUCED): R28 calls these outputs unspecified, and the model gives them no value. -/
def Obligations.ResetStateHoldsTheResetValues : Prop :=
  State.reset.isOpen = false ∧ State.reset.wop = none ∧ State.reset.wpb = 0 ∧ State.reset.pend = [] ∧
  State.reset.rspPend = none ∧ State.reset.str = none ∧
  State.reset.stOpen = false ∧ State.reset.stWopPresent = false ∧ State.reset.stWopId = 0 ∧
  State.reset.stWpb = 0 ∧ State.reset.stBusy = false ∧
  State.reset.cmdReady = true ∧ State.reset.wrValid = false ∧ State.reset.rspValid = false ∧
  State.reset.wrBit = none ∧ State.reset.wrId = none ∧ State.reset.rspOk = none

/-- R123, R135, R136, R137: reset in any state, also in the middle of a command: every element takes its reset value,
the pending events and the pending response are dropped, a packet is forgotten, no raw write happens, and an offered
beat is not taken; the outputs are those R136 and R26 give. The model's choices: one `reset` event a step (log entry 16,
DEDUCED), and the levels move on (log entry 1, DESIGN CHOICE). -/
def Obligations.ResetWorksInAnyState : Prop :=
  ∀ s : State, s.pins.rst = true →
    ∃ t : State, step s = .next t ∧
      t = { isOpen := false, wop := none, wpb := 0, pend := [], rspPend := none, str := none
            pins := s.pinsLater.head?.getD s.pins, pinsLater := s.pinsLater.tail
            cmdIn := s.cmdIn, trace := s.trace ++ [.reset] } ∧
      t.stOpen = false ∧ t.stWopPresent = false ∧ t.stWopId = 0 ∧ t.stWpb = 0 ∧ t.stBusy = false ∧
      t.wrValid = false ∧ t.rspValid = false ∧ t.cmdReady = true

/-! ### The channel commands -/

/-- R67, R68, R69: OPEN. With valid operands the width is the floor of 10^9 / (baud rate × duration), `WOP` and
`IS_OPEN` are written, one idle bit-write of that many raw writes to the new identifier is appended, and `rsp(1)` is
scheduled, whatever the channel was before. With an invalid operand only `rsp(0)` is scheduled. -/
def Obligations.OpenSetsTheChannelOrFails : Prop :=
  ∀ (s : State) (baudRate writeDurationNs : Word),
    (∀ id : WopId, baudRate ≠ 0 → writeDurationNs ≠ 0 →
      exec (.openChannel baudRate (some id) writeDurationNs) s = .next
        { s with
          isOpen := true
          wop := some id
          wpb := BitVec.ofNat 32 (1000000000 / (baudRate.toNat * writeDurationNs.toNat))
          pend := s.pend ++
            List.replicate (1000000000 / (baudRate.toNat * writeDurationNs.toNat)) { id := id, bit := true }
          rspPend := some true }) ∧
    (∀ wop : Option WopId, baudRate = 0 ∨ wop = none ∨ writeDurationNs = 0 →
      exec (.openChannel baudRate wop writeDurationNs) s = .next { s with rspPend := some false })

/-- R71: OPEN never rejects a width of 0: it succeeds, the channel is open, the response is true, and the width is 0
exactly when the duration exceeds the bit period in nanoseconds; then no write event is appended. -/
def Obligations.OpenSucceedsWithWidthZero : Prop :=
  ∀ (s : State) (baudRate writeDurationNs : Word) (id : WopId), baudRate ≠ 0 → writeDurationNs ≠ 0 →
    ∃ t, exec (.openChannel baudRate (some id) writeDurationNs) s = .next t ∧
      t.isOpen = true ∧ t.rspPend = some true ∧
      (t.wpb = 0 ↔ 1000000000 / baudRate.toNat < writeDurationNs.toNat) ∧
      (t.wpb = 0 → t.pend = s.pend)

/-- R73: CLOSE writes `WOP` and `IS_OPEN` and nothing else: `WPB` is kept, no event and no response is produced. -/
def Obligations.CloseClearsTheWriteOperation : Prop :=
  ∀ s : State, exec .closeChannel s = .next { s with isOpen := false, wop := none }

/-- R74: any number of CLOSE commands in a row has the effect of one. -/
def Obligations.CloseIsIdempotent : Prop :=
  ∀ s t u : State, exec .closeChannel s = .next t → exec .closeChannel t = .next u → u = t

/-! ### The Byte Framer -/

/-- R84, R85, R86, R87: WRITE_BYTE on an open channel appends exactly 10 × `WPB` raw writes to the identifier held:
the k-th belongs to bit k div `WPB` of the Symbol, which is Space for the start, bit 0 to bit 7 of the byte, Mark for
the stop. Nothing else changes. On a closed channel nothing changes at all. -/
def Obligations.WriteByteSendsOneSymbol : Prop :=
  ∀ (s : State) (v : Byte),
    (∀ id : WopId, s.isOpen = true → s.wop = some id →
      ∃ sent : List WriteEvent,
        exec (.writeByte v) s = .next { s with pend := s.pend ++ sent } ∧
        sent.length = 10 * s.wpb.toNat ∧
        ∀ (k : Nat) (hk : k < sent.length),
          sent[k] =
            { id := id
              bit :=
                if k / s.wpb.toNat = 0 then space
                else if k / s.wpb.toNat = 9 then mark
                else v.getLsbD (k / s.wpb.toNat - 1) }) ∧
    (s.isOpen = false → exec (.writeByte v) s = .next s)

/-! ### The Formatters -/

/-- R102, R104, R105: the hexadecimal formatters on an open channel append the frames of exactly 2, 4 and 8 upper-case
characters, the most significant first, and change nothing else. On a closed channel they change nothing at all. -/
def Obligations.HexFormattersSendFixedWidthUpperCase : Prop :=
  ∀ s : State,
    (∀ id : WopId, s.isOpen = true → s.wop = some id →
      (∀ v : Byte, exec (.writeUint8 v) s = .next
        { s with pend := s.pend ++ writeEvents id (bytes (upperHexText 2 v.toNat) s.wpb.toNat) }) ∧
      (∀ v : Half, exec (.writeUint16 v) s = .next
        { s with pend := s.pend ++ writeEvents id (bytes (upperHexText 4 v.toNat) s.wpb.toNat) }) ∧
      (∀ v : Word, exec (.writeUint32 v) s = .next
        { s with pend := s.pend ++ writeEvents id (bytes (upperHexText 8 v.toNat) s.wpb.toNat) })) ∧
    (s.isOpen = false →
      (∀ v, exec (.writeUint8 v) s = .next s) ∧ (∀ v, exec (.writeUint16 v) s = .next s) ∧
      (∀ v, exec (.writeUint32 v) s = .next s))

/-- R96, R97, R99: WRITE_DECIMAL on an open channel appends the frames of the padding spaces, then the minus sign of a
negative value, then the decimal digits of the magnitude, the most significant first; nothing is cut, and nothing else
changes. The value is read as two's complement, so the most negative one has its true magnitude (R98). On a closed
channel nothing changes at all. -/
def Obligations.WriteDecimalSendsThePaddedNumber : Prop :=
  ∀ (s : State) (value width : Word),
    (∀ id : WopId, s.isOpen = true → s.wop = some id →
      exec (.writeDecimal value width) s = .next
        { s with
          pend := s.pend ++ writeEvents id
            (bytes
              (List.replicate (width.toNat - (decimalRepresentation value.toInt).length) 0x20 ++
                decimalRepresentation value.toInt)
              s.wpb.toNat) }) ∧
    (s.isOpen = false → exec (.writeDecimal value width) s = .next s)

/-- R98: the most negative value gives "-2147483648", eleven bytes. -/
def Obligations.WriteDecimalOfTheMostNegativeValue : Prop :=
  ∀ (s : State) (id : WopId), s.isOpen = true → s.wop = some id →
    exec (.writeDecimal 0x80000000 0) s = .next
      { s with
        pend := s.pend ++ writeEvents id
          (bytes [0x2D, 0x32, 0x31, 0x34, 0x37, 0x34, 0x38, 0x33, 0x36, 0x34, 0x38] s.wpb.toNat) }

/-- R100, R101: the length of the natural representation: one for the sign of a negative value, and the number of
decimal digits of the magnitude; at least 1 and at most 11 bytes. -/
def Obligations.DecimalLengthIsSignPlusDigits : Prop :=
  ∀ v : Word,
    (decStr v).length =
      (if v.toInt < 0 then 1 else 0) + (if v.toInt.natAbs = 0 then 1 else Nat.log 10 v.toInt.natAbs + 1) ∧
    1 ≤ (decStr v).length ∧ (decStr v).length ≤ 11

/-- R93, R94: the header of WRITE_STRING starts a packet exactly when a text is present and not empty; it sends
nothing, and nothing but `STR` changes. An absent or empty text is over at once, whatever `width` is. -/
def Obligations.WriteStringHeaderStartsThePacket : Prop :=
  ∀ (s : State) (textPresent : Bool) (len width : Word),
    (textPresent = true → len ≠ 0 →
      exec (.writeString textPresent len width) s = .next
        { s with str := some { remaining := len, written := 0, width := width } }) ∧
    (textPresent = false ∨ len = 0 → exec (.writeString textPresent len width) s = .next s)

/-- R93: a payload beat on an open channel sends the frame of its low 8 bits, whatever they and the other bits are, and
counts; the last one also sends the padding and ends the packet. On a closed channel it is taken and counted all the
same, and nothing is sent. Two cases that no run reaches (R25, R53) are the model's choice (log entry 7, DEDUCED): at
`remaining` = 0 that count goes to 2^32 - 1, and at `written` = 2^32 - 1 that count goes to 0, so that a last beat there
pads the full width. -/
def Obligations.PayloadBeatSendsItsCharacter : Prop :=
  ∀ (s : State) (w : Beat) (rest : List Beat) (p : StrProgress), s.takes w rest → s.str = some p →
    (∀ id : WopId, s.isOpen = true → s.wop = some id →
      (p.remaining ≠ 1 → step s = .next
        { s.afterBeat w rest with
          pend := writeEvents id (bytes [w.extractLsb' 0 8] s.wpb.toNat)
          str := some { remaining := p.remaining - 1, written := p.written + 1, width := p.width } }) ∧
      (p.remaining = 1 → step s = .next
        { s.afterBeat w rest with
          pend := writeEvents id
            (bytes (w.extractLsb' 0 8 :: List.replicate (p.width.toNat - (p.written + 1).toNat) 0x20) s.wpb.toNat)
          str := none })) ∧
    (s.isOpen = false →
      (p.remaining ≠ 1 → step s = .next
        { s.afterBeat w rest with
          str := some { remaining := p.remaining - 1, written := p.written + 1, width := p.width } }) ∧
      (p.remaining = 1 → step s = .next { s.afterBeat w rest with str := none }))

/-! ### The Calibration Generator -/

/-- R110, R111, R112, R115: CALIBRATE on an open channel appends exactly 2 × `CAL_IDLE_WRITES` + 10 × `CAL_WPB` ×
`CAL_BYTE_COUNT` raw writes, whatever `WPB` is: a run of Mark, then runs of `CAL_WPB` raw writes that alternate,
beginning with Space, then a run of Mark. Nothing else changes, `WPB` included (R113). On a closed channel nothing
changes at all. For every value of the three parameters (R6). -/
def Obligations.CalibrateSendsTheAlternatingPattern : Prop :=
  ∀ s : State,
    (∀ id : WopId, s.isOpen = true → s.wop = some id →
      ∃ sent : List WriteEvent,
        exec .calibrate s = .next { s with pend := s.pend ++ sent } ∧
        sent.length = 2 * Config.calIdleWrites + 10 * Config.calWpb * Config.calByteCount ∧
        ∀ (k : Nat) (hk : k < sent.length),
          sent[k] =
            { id := id
              bit :=
                if k < Config.calIdleWrites then mark
                else if Config.calIdleWrites + 10 * Config.calWpb * Config.calByteCount ≤ k then mark
                else decide ((k - Config.calIdleWrites) / Config.calWpb % 2 = 1) }) ∧
    (s.isOpen = false → exec .calibrate s = .next s)

/-! ### The steps of the ports -/

/-- R35: when nothing is pending, no packet is in progress and the offered beat decodes to a command, the step is that
command's effect on the state in which the beat is taken. -/
def Obligations.StepRunsTheDecodedHeader : Prop :=
  ∀ (s : State) (w : Beat) (rest : List Beat) (i : Instr), s.takes w rest → s.str = none → decode w = .ok i →
    step s = exec i (s.afterBeat w rest)

/-- R58: a header with a reserved opcode is taken as a complete packet and does nothing, whatever its other bits
are. -/
def Obligations.ReservedOpcodeIsTakenAndIgnored : Prop :=
  ∀ (s : State) (w : Beat) (rest : List Beat), s.takes w rest → s.str = none →
    (w.extractLsb' 0 8).toNat = 0 ∨ 10 ≤ (w.extractLsb' 0 8).toNat →
    step s = .next (s.afterBeat w rest)

/-- R33, R36: while write events are pending the engine presents the oldest one, and the step transfers it if the sink
is ready and otherwise holds it; nothing else of the engine changes, and no beat is taken (R35). That waiting for the
sink is a step of its own, and that the levels move on, is the model's choice (log entries 10, DEDUCED, and 1, DESIGN
CHOICE). -/
def Obligations.WritePortStepSendsTheOldestEvent : Prop :=
  ∀ (s : State) (e : WriteEvent) (rest : List WriteEvent), s.pins.rst = false → s.pend = e :: rest →
    s.wrValid = true ∧ s.wrBit = some e.bit ∧ s.wrId = some e.id ∧
    (s.pins.wrReady = true → step s = .next
      { s with
        pend := rest
        trace := s.trace ++ [.wr e.id e.bit]
        pins := s.pinsLater.head?.getD s.pins
        pinsLater := s.pinsLater.tail }) ∧
    (s.pins.wrReady = false → step s = .next
      { s with pins := s.pinsLater.head?.getD s.pins, pinsLater := s.pinsLater.tail })

/-- R38: the response leaves when the write events have drained, and nothing else of the engine changes. -/
def Obligations.ResponseStepFollowsTheWrites : Prop :=
  ∀ (s : State) (ok : Bool), s.pins.rst = false → s.pend = [] → s.rspPend = some ok →
    step s = .next
      { s with
        rspPend := none
        trace := s.trace ++ [.rsp ok]
        pins := s.pinsLater.head?.getD s.pins
        pinsLater := s.pinsLater.tail }

/-- R134, R149: when no beat is offered, an engine with nothing to send waits, also in the middle of a packet: nothing
of it changes. -/
def Obligations.EngineWaitsForABeat : Prop :=
  ∀ s : State, s.pins.rst = false → s.pend = [] → s.rspPend = none → s.pins.cmdValid = false ∨ s.cmdIn = [] →
    step s = .next { s with pins := s.pinsLater.head?.getD s.pins, pinsLater := s.pinsLater.tail }

/-- R26, R123: in every state at most one of the command, write and response ports has its ready or valid signal up,
and the engine is idle exactly when it could take a beat and no packet is in progress. -/
def Obligations.PortsExcludeEachOther : Prop :=
  ∀ s : State,
    ¬(s.cmdReady = true ∧ s.wrValid = true) ∧ ¬(s.wrValid = true ∧ s.rspValid = true) ∧
    ¬(s.cmdReady = true ∧ s.rspValid = true) ∧
    (s.busy = false ↔ s.cmdReady = true ∧ s.str = none)

/-- R27, R76: the status outputs show the new channel as soon as a valid OPEN is accepted; its response is then pending,
and the engine is busy until that response has left: whatever a step does in a state with a response pending, `st_busy`
is 1, and the response is still pending afterwards unless the step sent it or was a reset (R137). -/
def Obligations.StatusShowsTheNewChannelAtOnce : Prop :=
  (∀ (s : State) (baudRate writeDurationNs : Word) (id : WopId), baudRate ≠ 0 → writeDurationNs ≠ 0 →
    ∃ t, exec (.openChannel baudRate (some id) writeDurationNs) s = .next t ∧
      t.stOpen = true ∧ t.stWopPresent = true ∧ t.stWopId = id ∧
      t.stWpb.toNat = 1000000000 / baudRate.toNat / writeDurationNs.toNat ∧
      t.stBusy = true ∧ t.rspPend = some true) ∧
  ∀ (s t : State) (ok : Bool), s.rspPend = some ok → step s = .next t →
    s.stBusy = true ∧
      (t.rspPend = some ok ∨ t.trace = s.trace ++ [.rsp ok] ∨ t.trace = s.trace ++ [.reset])

/-- The model's convention for placing an instruction (log entry 8): a word of the opcode table that decodes to a
command is run by the very next step, as the command's effect on the state in which its beat is taken. -/
def Obligations.PlacedWordRunsAtTheNextStep : Prop :=
  ∀ (s : State) (nbits w : Nat) (i : Instr), decodeTableWord nbits w = some i →
    step (s.withFetchWord nbits w) =
      exec i ((s.withFetchWord nbits w).afterBeat (tableBeat nbits w) s.cmdIn)

/-- R35, R42: over all steps from all states: the command stream changes only by taking its first beat, only when
`cmd_ready` is 1, the beat is offered and no reset comes, and the one new event is that beat; a step that takes no beat
neither appends to `PEND` nor starts a response or a packet. -/
def Obligations.BeatsAreTakenOnlyWhenReady : Prop :=
  ∀ s t : State, step s = .next t →
    (t.cmdIn ≠ s.cmdIn →
      s.cmdReady = true ∧ s.pins.cmdValid = true ∧ s.pins.rst = false ∧
        ∃ w, s.cmdIn = w :: t.cmdIn ∧ t.trace = s.trace ++ [.cmd w]) ∧
    (t.cmdIn = s.cmdIn →
      t.pend <:+ s.pend ∧ (t.rspPend = s.rspPend ∨ t.rspPend = none) ∧ (t.str = s.str ∨ t.str = none))

/-- R45, R152: a sink that never becomes ready hangs the engine: for any number of steps nothing changes. The levels
held for ever are `wr_ready` = 0 and `rst` = 0 (log entries 1 and 10). -/
def Obligations.SilentSinkHangsTheEngine : Prop :=
  ∀ (s : State) (k : Nat), s.pins.rst = false → s.pins.wrReady = false → s.pinsLater = [] → s.pend ≠ [] →
    run k s = .next s

/-- R33, R38, R123: what the ports show is what the step does. A response pulse with `rsp_ok` = ok is given exactly at
the step that is the event `rsp(ok)`, and none in a cycle with `rst` = 1; a raw write happens exactly when it is
presented, the sink is ready and no reset comes; a beat is taken exactly when it is offered, `cmd_ready` is 1 and no
reset comes; a reset is the event of the step exactly when `rst` is 1. The model's choices: `rsp_ok`, `wr_id` and
`wr_bit`, which R28 leaves unspecified while not valid, have no value then, so that each is `some` exactly when presented
(log entry 9, DEDUCED; 93_implementation_defined.md U9); and a step has one `reset` event (log entry 16, DEDUCED). -/
def Obligations.PortsShowTheEventOfTheStep : Prop :=
  ∀ s t : State, step s = .next t →
    s.rspValid = s.rspOk.isSome ∧
    (∀ ok : Bool, t.trace = s.trace ++ [.rsp ok] ↔ s.rspOk = some ok) ∧
    (∀ (id : WopId) (b : Bit), t.trace = s.trace ++ [.wr id b] ↔
      s.pins.rst = false ∧ s.pins.wrReady = true ∧ s.wrId = some id ∧ s.wrBit = some b) ∧
    (∀ w : Beat, t.trace = s.trace ++ [.cmd w] ↔
      s.pins.rst = false ∧ s.cmdReady = true ∧ s.pins.cmdValid = true ∧ s.cmdIn.head? = some w) ∧
    (t.trace = s.trace ++ [.reset] ↔ s.pins.rst = true)

/-! ### Whole-machine rules -/

/-- R15, R16, R17: whatever a step does, if `IS_OPEN`, `WOP` or `WPB` changes then the step was a reset or took a header
with the opcode of OPEN or CLOSE; and if `WPB` changes, a reset or a header with the opcode of OPEN. -/
def Obligations.OnlyOpenAndCloseChangeTheChannel : Prop :=
  ∀ s t : State, step s = .next t → s.pins.rst = false →
    (t.channel ≠ s.channel →
      s.str = none ∧ ∃ w, s.cmdIn = w :: t.cmdIn ∧ (opField w = 0x01 ∨ opField w = 0x02)) ∧
    (t.wpb ≠ s.wpb → s.str = none ∧ ∃ w, s.cmdIn = w :: t.cmdIn ∧ opField w = 0x01)

/-- R38: only OPEN schedules a response, over all commands and all states. -/
def Obligations.OnlyOpenResponds : Prop :=
  ∀ (i : Instr) (s t : State), exec i s = .next t → t.rspPend ≠ s.rspPend → i.opcode = 0x01

/-- R15, R18 (d): while the channel is closed no raw write occurs. Whatever a step does in a state that meets the
invariant and is closed (a payload beat, a write port with nothing to send, a header, a reset), it adds no raw write to
the trace, and write events are pending afterwards only if it opened the channel. And, in every state, a command that is
accepted while the channel is closed and leaves it closed appends nothing. -/
def Obligations.NothingIsWrittenWhileClosed : Prop :=
  (∀ s t : State, s.Inv → s.isOpen = false → step s = .next t →
    (∃ added : List Event, t.trace = s.trace ++ added ∧ ∀ e ∈ added, e.isWrite = false) ∧
      (t.isOpen = false → t.pend = [])) ∧
  ∀ (i : Instr) (s t : State), exec i s = .next t → s.isOpen = false → t.isOpen = false → t.pend = s.pend

/-- R16, R42 (e): every command completes in every state; it only appends to `PEND`, every appended event carries the
identifier that `WOP` holds when the command is done, and the environment and the trace are not its business. -/
def Obligations.CommandsOnlyAppendTheirOwnEvents : Prop :=
  ∀ (i : Instr) (s : State), ∃ (t : State) (sent : List WriteEvent),
    exec i s = .next t ∧ t.pend = s.pend ++ sent ∧ (∀ e ∈ sent, t.wop = some e.id) ∧
    t.cmdIn = s.cmdIn ∧ t.trace = s.trace ∧ t.pins = s.pins ∧ t.pinsLater = s.pinsLater

/-- Every step from every state answers a next state. R124 and R126 say that the engine takes no trap and no interrupt;
that it therefore has no fault and no refusal, and that a wait or a hang is a step too, is the model's choice (log
entries 11 and 10, DEDUCED). -/
def Obligations.EveryStepAnswersANextState : Prop :=
  ∀ s : State, ∃ t, step s = .next t

/-- R18 and what R17, R25 and R38 say of the states a run can reach, at reset. -/
def Obligations.InvariantHoldsAtReset : Prop := State.reset.Inv

/-- R18: the invariant is kept by every step, under every environment, resets included. -/
def Obligations.EveryStepKeepsTheInvariant : Prop :=
  ∀ s t : State, s.Inv → step s = .next t → t.Inv

/-! ### The encoding -/

/-- R49, R60, R62: decoding the header of a well-formed command gives the command back, for every command with every
operand at every value. -/
def Obligations.DecodeOfEncodeIsTheCommand : Prop :=
  ∀ i : Instr, i.wf = true → decode (encode i) = .ok i

/-- R56, R58, R60: a header decodes to a command exactly when its low 8 bits are 0x01 to 0x09; the command then has
that opcode and is well formed. -/
def Obligations.OpcodeAloneSelectsTheCommand : Prop :=
  ∀ w : Beat,
    ((∃ i, decode w = .ok i) ↔ 1 ≤ (w.extractLsb' 0 8).toNat ∧ (w.extractLsb' 0 8).toNat ≤ 9) ∧
    ∀ i, decode w = .ok i → i.opcode = w.extractLsb' 0 8 ∧ i.wf = true

/-- R59: two headers that agree on the opcode and on the bits their command uses decode alike and have the same effect,
and two payload beats that agree on bits 7:0 have the same effect. -/
def Obligations.IgnoredBitsHaveNoEffect : Prop :=
  (∀ w w' : Beat, w.extractLsb' 0 8 = w'.extractLsb' 0 8 →
    ((w.extractLsb' 0 8).toNat = 1 →
      w.getLsbD 8 = w'.getLsbD 8 ∧ (w.getLsbD 8 = true → w.extractLsb' 12 4 = w'.extractLsb' 12 4) ∧
        w.extractLsb' 16 32 = w'.extractLsb' 16 32 ∧ w.extractLsb' 48 32 = w'.extractLsb' 48 32) →
    ((w.extractLsb' 0 8).toNat = 4 ∨ (w.extractLsb' 0 8).toNat = 7 →
      w.extractLsb' 16 8 = w'.extractLsb' 16 8) →
    ((w.extractLsb' 0 8).toNat = 5 →
      w.getLsbD 8 = w'.getLsbD 8 ∧ (w.getLsbD 8 = true → w.extractLsb' 16 32 = w'.extractLsb' 16 32) ∧
        w.extractLsb' 48 32 = w'.extractLsb' 48 32) →
    ((w.extractLsb' 0 8).toNat = 6 →
      w.extractLsb' 16 32 = w'.extractLsb' 16 32 ∧ w.extractLsb' 48 32 = w'.extractLsb' 48 32) →
    ((w.extractLsb' 0 8).toNat = 8 → w.extractLsb' 16 16 = w'.extractLsb' 16 16) →
    ((w.extractLsb' 0 8).toNat = 9 → w.extractLsb' 16 32 = w'.extractLsb' 16 32) →
    decode w = decode w' ∧ ∀ s : State, beatStep w s = beatStep w' s) ∧
  (∀ (w w' : Beat) (p : StrProgress) (s : State), w.extractLsb' 0 8 = w'.extractLsb' 0 8 →
    execPayload p w s = execPayload p w' s)

/-- R64: the worked encodings, each decoded to the command it stands for. -/
def Obligations.WorkedEncodingsDecode : Prop :=
  decode 0x000003E8000025800101 = .ok (.openChannel 9600 (some 0) 1000) ∧
  decode 0x000001F40001C2003101 = .ok (.openChannel 115200 (some 3) 500) ∧
  decode 0x000003E8000025800001 = .ok (.openChannel 9600 none 1000) ∧
  decode 0x00000000000000000002 = .ok .closeChannel ∧
  decode 0x00000000000000000003 = .ok .calibrate ∧
  decode 0x00000000000000410004 = .ok (.writeByte 0x41) ∧
  decode 0x0000000A000000040105 = .ok (.writeString true 4 10) ∧
  decode 0x00000000000000000005 = .ok (.writeString false 0 0) ∧
  decode 0x00000000000000000105 = .ok (.writeString true 0 0) ∧
  decode 0x0000000AFFFFFB2E0006 = .ok (.writeDecimal (BitVec.ofInt 32 (-1234)) 10) ∧
  decode 0x000000000000001B0007 = .ok (.writeUint8 0x1B) ∧
  decode 0x0000000000002A4C0008 = .ok (.writeUint16 0x2A4C) ∧
  decode 0x00000000DEADBEEF0009 = .ok (.writeUint32 0xDEADBEEF)

/-- R41, R55: the beats of an assembled command list are complete packets: the header of every command announces exactly
as many payload beats as the command has, and a reader that counts beats by position, as the engine does, finds a header
after the last one of every packet. -/
def Obligations.AssembledPacketsAreComplete : Prop :=
  (∀ c : Command, c.wf = true → payloadBeats (encode c.header) = c.payload.length) ∧
  ∀ cs : List Command, (∀ c ∈ cs, c.wf = true) → packetsComplete 0 (assemble cs) = true

/-! ### Runs -/

/-- R154, R86, R106, R115: how many raw writes each command makes, on an open and on a closed channel. The events of a
command are tied to the steps by `EndedRunsSentEverything`. -/
def Obligations.CommandsMakeTheTabledRawWrites : Prop :=
  ∀ (c : Command) (ch : Channel), (ch.isOpen = true ↔ ch.wop.isSome = true) →
    ((c.events ch).filter Event.isWrite).length = c.rawWrites ch

/-- R42 (d), R76: from an idle engine that is offered a valid OPEN, with a quiet environment, `WPB` + 2 steps run it:
the beat, the `WPB` raw writes of Mark to the new identifier, the response; then the engine is idle with the channel
open. -/
def Obligations.OpenRespondsAfterItsIdleBitWrite : Prop :=
  ∀ (s : State) (rest : List Beat) (baudRate writeDurationNs : Word) (id : WopId),
    s.quiet → s.idle = true → s.cmdIn = encode (.openChannel baudRate (some id) writeDurationNs) :: rest →
    baudRate ≠ 0 → writeDurationNs ≠ 0 →
    run ((writesPerBit baudRate writeDurationNs).toNat + 2) s = .next
      { s with
        isOpen := true
        wop := some id
        wpb := writesPerBit baudRate writeDurationNs
        cmdIn := rest
        trace := s.trace ++ [.cmd (encode (.openChannel baudRate (some id) writeDurationNs))] ++
          List.replicate (writesPerBit baudRate writeDurationNs).toNat (.wr id true) ++ [.rsp true] }

/-- R36, R42 (b): with a quiet environment a busy engine sends its pending events in order, one a step, and is then
ready for its response or its next beat. -/
def Obligations.PendingEventsDrainInOrder : Prop :=
  ∀ s : State, s.quiet →
    run s.pend.length s = .next { s with pend := [], trace := s.trace ++ s.pend.map WriteEvent.event }

/-- R92, R93, R95: a WRITE_STRING packet with a present, non-empty text, offered whole to an idle engine with an open
channel and a quiet environment: each character's frame follows the beat that carried it, the padding spaces follow the
last frame, the text is never cut, and the engine is idle again with the channel as it was. -/
def Obligations.StringPacketSendsTextThenPadding : Prop :=
  ∀ (s : State) (rest : List Beat) (text : List Byte) (width : Word) (id : WopId),
    s.quiet → s.idle = true → s.isOpen = true → s.wop = some id →
    text ≠ [] → text.length < 2 ^ 32 →
    s.cmdIn = (Command.writeString (some text) width).beats ++ rest →
    ∃ k, run k s = .next
      { s with
        cmdIn := rest
        trace := s.trace ++ [.cmd (encode (.writeString true (BitVec.ofNat 32 text.length) width))] ++
          text.flatMap (fun ch => .cmd (payloadBeat ch) :: (frame ch s.wpb.toNat).map (.wr id)) ++
          (bytes (List.replicate (width.toNat - text.length) 0x20) s.wpb.toNat).map (.wr id) }

/-- R42 (f): whatever the environment does other than reset the engine: what the engine has sent of an assembled
command list is always a first part of the concatenation, in command order, of the event lists of its commands. -/
def Obligations.RunsSendOnlyTheCommandsEvents : Prop :=
  ∀ (cs : List Command) (s t : State) (k : Nat),
    (∀ c ∈ cs, c.wf = true) → s.Inv → s.idle = true → s.cmdIn = assemble cs →
    run k s = .next t → resets t.trace = resets s.trace →
    outputs t.trace <+: outputs s.trace ++ allEvents cs s.channel

/-- R42 (f), R46: when such a run, without a reset, has ended, it has sent the whole concatenation, and the end state is the one the
commands' transitions give. -/
def Obligations.EndedRunsSentEverything : Prop :=
  ∀ (cs : List Command) (s t : State) (k : Nat),
    (∀ c ∈ cs, c.wf = true) → s.Inv → s.idle = true → s.cmdIn = assemble cs →
    run k s = .next t → resets t.trace = resets s.trace → t.ended →
    outputs t.trace = outputs s.trace ++ allEvents cs s.channel ∧ t.channel = finalChannel cs s.channel

/-- R45, R46, R129: under the liveness assumption every assembled command list comes to its end. -/
def Obligations.FairRunsEnd : Prop :=
  ∀ (cs : List Command) (s : State),
    (∀ c ∈ cs, c.wf = true) → s.Inv → s.idle = true → s.cmdIn = assemble cs → s.fair →
    ∃ (k : Nat) (t : State), run k s = .next t ∧ t.ended

/-! ### The reference sink -/

/-- R44, R86: the sink's decoder, which knows the width in use, reads the bytes back from the raw writes, for every
byte list and every width of at least 1. -/
def Obligations.SinkReadsTheBytesBack : Prop :=
  ∀ (w : Nat) (l : List Byte), 0 < w → readSymbols w l.length (bytes l w) = some l

/-- R44: a write event sets the line of its identifier to its Bit and is appended to that identifier's log; the lines
and logs of the other identifiers are untouched, whatever their level is. -/
def Obligations.WriteEventDrivesItsLineOnly : Prop :=
  ∀ (trace : List Event) (id other : WopId) (b : Bit), other ≠ id →
    sinkLine id (trace ++ [.wr id b]) = b ∧
    sinkLog id (trace ++ [.wr id b]) = sinkLog id trace ++ [b] ∧
    sinkLine other (trace ++ [.wr id b]) = sinkLine other trace ∧
    sinkLog other (trace ++ [.wr id b]) = sinkLog other trace
end

