-- ==== Sys2Proof/Laws/PerInstr.lean ====
section
/-! SUPPORT. Statements made for every instruction, one lemma per constructor. -/

namespace Sys2Proof.Laws

/-- The header of a command carries the command's opcode in bits 7:0, the opcode is none of the reserved ones, and
the payload length a decoder reads from it is 0 for every command but WRITE_STRING (30_encoding.md R49, R55, R56,
R58). -/
def OpcodeField.Statement (i : Instr) : Prop :=
  opField (encode i) = i.opcode ∧ 1 ≤ i.opcode.toNat ∧ i.opcode.toNat ≤ 9 ∧
    (i.opcode ≠ 0x05 → payloadBeats (encode i) = 0)

/-- The opcode field of an assembled header. -/
@[simp] theorem opField_headerBeat (op : Byte) (p : Bool) (id : WopId) (a b : Word) :
    opField (headerBeat op p id a b) = op := by
  apply BitVec.eq_of_getLsbD_eq
  intro i hi
  simp only [opField, headerBeat, BitVec.getLsbD_extractLsb', hi, Nat.zero_add, decide_true, Bool.true_and]
  erw [BitVec.getLsbD_append]
  simp [hi]

theorem payloadBeats_of_opcode {w : Beat} (h : opField w ≠ 0x05) : payloadBeats w = 0 :=
  if_neg fun hp => h hp.1

/-- No command has a reserved opcode (R56, R58). -/
theorem opcode_range (i : Instr) : 1 ≤ i.opcode.toNat ∧ i.opcode.toNat ≤ 9 := by
  cases i <;> simp [Instr.opcode]

/-- The statement follows from the opcode field alone. -/
theorem OpcodeField.of_opField {i : Instr} (h : opField (encode i) = i.opcode) : OpcodeField.Statement i :=
  ⟨h, (opcode_range i).1, (opcode_range i).2, fun hne => payloadBeats_of_opcode (h ▸ hne)⟩

theorem OpcodeField.openChannel (baudRate : Word) (wop : Option WopId) (writeDurationNs : Word) :
    OpcodeField.Statement (.openChannel baudRate wop writeDurationNs) :=
  OpcodeField.of_opField (by cases wop <;> simp [encode, Instr.opcode])

theorem OpcodeField.closeChannel : OpcodeField.Statement .closeChannel :=
  OpcodeField.of_opField (by simp [encode, Instr.opcode])

theorem OpcodeField.calibrate : OpcodeField.Statement .calibrate :=
  OpcodeField.of_opField (by simp [encode, Instr.opcode])

theorem OpcodeField.writeByte (byte : Byte) : OpcodeField.Statement (.writeByte byte) :=
  OpcodeField.of_opField (by simp [encode, Instr.opcode])

theorem OpcodeField.writeString (textPresent : Bool) (len width : Word) : OpcodeField.Statement (.writeString textPresent len width) :=
  OpcodeField.of_opField (by simp [encode, Instr.opcode])

theorem OpcodeField.writeDecimal (value width : Word) : OpcodeField.Statement (.writeDecimal value width) :=
  OpcodeField.of_opField (by simp [encode, Instr.opcode])

theorem OpcodeField.writeUint8 (value : Byte) : OpcodeField.Statement (.writeUint8 value) :=
  OpcodeField.of_opField (by simp [encode, Instr.opcode])

theorem OpcodeField.writeUint16 (value : Half) : OpcodeField.Statement (.writeUint16 value) :=
  OpcodeField.of_opField (by simp [encode, Instr.opcode])

theorem OpcodeField.writeUint32 (value : Word) : OpcodeField.Statement (.writeUint32 value) :=
  OpcodeField.of_opField (by simp [encode, Instr.opcode])

end Sys2Proof.Laws
end

