-- ==== Sys2Proof/Laws/Encoding.lean ====
section
/-! SUPPORT. The bits of an assembled header and the fields read back from it (30_encoding.md R49). -/

namespace Sys2Proof

/-- Every bit of a header, by the table of R49. -/
theorem getLsbD_headerBeat (op : Byte) (p : Bool) (id : WopId) (a b : Word) (k : Nat) :
    (headerBeat op p id a b).getLsbD k =
      if k < 8 then op.getLsbD k
      else if k < 9 then p
      else if k < 12 then false
      else if k < 16 then id.getLsbD (k - 12)
      else if k < 48 then a.getLsbD (k - 16)
      else b.getLsbD (k - 48) := by
  unfold headerBeat
  repeat erw [BitVec.getLsbD_append]
  have e1 : k - 8 < 1 ↔ k < 9 := by omega
  have e2 : k - 8 - 1 < 3 ↔ k < 12 := by omega
  have e3 : k - 8 - 1 - 3 < 4 ↔ k < 16 := by omega
  have e4 : k - 8 - 1 - 3 - 4 < 32 ↔ k < 48 := by omega
  simp only [e1, e2, e3, e4]
  simp only [Nat.sub_sub]
  split
  · rfl
  split
  · have : k = 8 := by omega
    subst this; simp
  split
  · simp
  rfl

@[simp] theorem presentField_headerBeat (op : Byte) (p : Bool) (id : WopId) (a b : Word) :
    presentField (headerBeat op p id a b) = p := by
  rw [presentField, getLsbD_headerBeat]; simp

@[simp] theorem idField_headerBeat (op : Byte) (p : Bool) (id : WopId) (a b : Word) :
    idField (headerBeat op p id a b) = id := by
  apply BitVec.eq_of_getLsbD_eq
  intro i hi
  simp only [idField, BitVec.getLsbD_extractLsb', getLsbD_headerBeat, hi]
  rw [if_neg (by omega), if_neg (by omega), if_neg (by omega), if_pos (by omega)]
  simp

@[simp] theorem aField_headerBeat (op : Byte) (p : Bool) (id : WopId) (a b : Word) :
    aField (headerBeat op p id a b) = a := by
  apply BitVec.eq_of_getLsbD_eq
  intro i hi
  simp only [aField, BitVec.getLsbD_extractLsb', getLsbD_headerBeat, hi]
  rw [if_neg (by omega), if_neg (by omega), if_neg (by omega), if_neg (by omega), if_pos (by omega)]
  simp

@[simp] theorem bField_headerBeat (op : Byte) (p : Bool) (id : WopId) (a b : Word) :
    bField (headerBeat op p id a b) = b := by
  apply BitVec.eq_of_getLsbD_eq
  intro i hi
  simp only [bField, BitVec.getLsbD_extractLsb', getLsbD_headerBeat, hi]
  rw [if_neg (by omega), if_neg (by omega), if_neg (by omega), if_neg (by omega), if_neg (by omega)]
  simp

/-- A narrow operand is the low bits of `A` (R53). -/
theorem aField_low8 (w : Beat) : (aField w).extractLsb' 0 8 = w.extractLsb' 16 8 := by
  apply BitVec.eq_of_getLsbD_eq
  intro i hi
  simp only [aField, BitVec.getLsbD_extractLsb', hi]
  simp; intros; omega

theorem aField_low16 (w : Beat) : (aField w).extractLsb' 0 16 = w.extractLsb' 16 16 := by
  apply BitVec.eq_of_getLsbD_eq
  intro i hi
  simp only [aField, BitVec.getLsbD_extractLsb', hi]
  simp; intros; omega

@[simp] theorem low8_setWidth (b : Byte) : (b.setWidth 32).extractLsb' 0 8 = b := by
  apply BitVec.eq_of_toNat_eq
  have := b.isLt
  simp; omega

@[simp] theorem low16_setWidth (h : Half) : (h.setWidth 32).extractLsb' 0 16 = h := by
  apply BitVec.eq_of_toNat_eq
  have := h.isLt
  simp; omega

/-- A payload beat carries its character in bits 7:0 (R50). -/
@[simp] theorem chField_payloadBeat (ch : Byte) : chField (payloadBeat ch) = ch := by
  apply BitVec.eq_of_toNat_eq
  have := ch.isLt
  simp [chField, payloadBeat]; omega

end Sys2Proof
end

