-- ==== Sys2Proof/Laws/Operands.lean ====
section
/-! SUPPORT. One lemma per pure function of Machine/Operands.lean: lengths, and how lists are built. -/

namespace Sys2Proof.Machine

@[simp] theorem length_bitWrite (b : Bit) (w : Nat) : (bitWrite b w).length = w := by simp [bitWrite]

@[simp] theorem bitWrite_zero (b : Bit) : bitWrite b 0 = [] := rfl

@[simp] theorem length_frameBits (v : Byte) : (frameBits v).length = 10 := rfl

theorem length_flatMap_bitWrite (w : Nat) (l : List Bit) : (l.flatMap (bitWrite · w)).length = w * l.length := by
  induction l with
  | nil => rfl
  | cons b l ih => simp [ih, Nat.mul_add, Nat.add_comm]

@[simp] theorem length_frame (v : Byte) (w : Nat) : (frame v w).length = 10 * w := by
  rw [frame, length_flatMap_bitWrite, length_frameBits, Nat.mul_comm]

@[simp] theorem bytes_nil (w : Nat) : bytes [] w = [] := rfl

theorem bytes_cons (v : Byte) (l : List Byte) (w : Nat) : bytes (v :: l) w = frame v w ++ bytes l w := rfl

theorem bytes_append (l l' : List Byte) (w : Nat) : bytes (l ++ l') w = bytes l w ++ bytes l' w :=
  List.flatMap_append

@[simp] theorem length_bytes (l : List Byte) (w : Nat) : (bytes l w).length = 10 * w * l.length := by
  induction l with
  | nil => rfl
  | cons v l ih => simp [bytes_cons, ih, Nat.mul_add, Nat.add_comm]

@[simp] theorem length_padding (width : Word) (n : Nat) : (padding width n).length = width.toNat - n := by
  simp [padding]

theorem length_decimalText (value width : Word) :
    (decimalText value width).length = max width.toNat (decStr value).length := by
  simp [decimalText]; omega

@[simp] theorem length_hex2 (v : Byte) : (hex2 v).length = 2 := rfl

@[simp] theorem length_hex4 (v : Half) : (hex4 v).length = 4 := rfl

@[simp] theorem length_hex8 (v : Word) : (hex8 v).length = 8 := rfl

theorem length_calSeq (w i n : Nat) : (calSeq w i n).length = 2 * i + 10 * w * n := by
  simp [calSeq]; omega

theorem openOperandsValid_iff (baudRate writeDurationNs : Word) :
    openOperandsValid baudRate writeDurationNs = true ↔ baudRate ≠ 0 ∧ writeDurationNs ≠ 0 := by
  simp [openOperandsValid]

theorem nsecPerBit_le (baudRate : Word) : nsecPerBit baudRate ≤ Config.nsPerSec := Nat.div_le_self _ _

/-- The number that OPEN stores fits its word (R69). -/
theorem toNat_writesPerBit (baudRate writeDurationNs : Word) :
    (writesPerBit baudRate writeDurationNs).toNat = Config.nsPerSec / baudRate.toNat / writeDurationNs.toNat := by
  have h := Nat.le_trans (Nat.div_le_self (nsecPerBit baudRate) writeDurationNs.toNat) (nsecPerBit_le baudRate)
  simp only [writesPerBit, BitVec.toNat_ofNat]
  rw [Nat.mod_eq_of_lt (Nat.lt_of_le_of_lt h (by decide))]
  rfl

theorem calWpb_pos : 1 ≤ Config.calWpb := by simp [Config.calWpb]

end Sys2Proof.Machine
end

