-- ==== Sys2Proof/Laws/State.lean ====
section
/-! SUPPORT. One lemma per field and per update of the state, true by unfolding, so that no proof unfolds a record
update again; and when each output of the ports is up. -/

namespace Sys2Proof.Machine

/-! ### `respond` -/

@[simp] theorem State.respond_isOpen (s : State) (ok : Bool) : (s.respond ok).isOpen = s.isOpen := rfl
@[simp] theorem State.respond_wop (s : State) (ok : Bool) : (s.respond ok).wop = s.wop := rfl
@[simp] theorem State.respond_wpb (s : State) (ok : Bool) : (s.respond ok).wpb = s.wpb := rfl
@[simp] theorem State.respond_pend (s : State) (ok : Bool) : (s.respond ok).pend = s.pend := rfl
@[simp] theorem State.respond_rspPend (s : State) (ok : Bool) : (s.respond ok).rspPend = some ok := rfl
@[simp] theorem State.respond_str (s : State) (ok : Bool) : (s.respond ok).str = s.str := rfl
@[simp] theorem State.respond_pins (s : State) (ok : Bool) : (s.respond ok).pins = s.pins := rfl
@[simp] theorem State.respond_pinsLater (s : State) (ok : Bool) : (s.respond ok).pinsLater = s.pinsLater := rfl
@[simp] theorem State.respond_cmdIn (s : State) (ok : Bool) : (s.respond ok).cmdIn = s.cmdIn := rfl
@[simp] theorem State.respond_trace (s : State) (ok : Bool) : (s.respond ok).trace = s.trace := rfl

/-! ### `setChannel` -/

@[simp] theorem State.setChannel_isOpen (s : State) (id : WopId) (w : Word) : (s.setChannel id w).isOpen = true := rfl
@[simp] theorem State.setChannel_wop (s : State) (id : WopId) (w : Word) : (s.setChannel id w).wop = some id := rfl
@[simp] theorem State.setChannel_wpb (s : State) (id : WopId) (w : Word) : (s.setChannel id w).wpb = w := rfl
@[simp] theorem State.setChannel_pend (s : State) (id : WopId) (w : Word) : (s.setChannel id w).pend = s.pend := rfl
@[simp] theorem State.setChannel_rspPend (s : State) (id : WopId) (w : Word) : (s.setChannel id w).rspPend = s.rspPend := rfl
@[simp] theorem State.setChannel_str (s : State) (id : WopId) (w : Word) : (s.setChannel id w).str = s.str := rfl
@[simp] theorem State.setChannel_pins (s : State) (id : WopId) (w : Word) : (s.setChannel id w).pins = s.pins := rfl
@[simp] theorem State.setChannel_pinsLater (s : State) (id : WopId) (w : Word) : (s.setChannel id w).pinsLater = s.pinsLater := rfl
@[simp] theorem State.setChannel_cmdIn (s : State) (id : WopId) (w : Word) : (s.setChannel id w).cmdIn = s.cmdIn := rfl
@[simp] theorem State.setChannel_trace (s : State) (id : WopId) (w : Word) : (s.setChannel id w).trace = s.trace := rfl

/-! ### `clearChannel` -/

@[simp] theorem State.clearChannel_isOpen (s : State) : (s.clearChannel).isOpen = false := rfl
@[simp] theorem State.clearChannel_wop (s : State) : (s.clearChannel).wop = none := rfl
@[simp] theorem State.clearChannel_wpb (s : State) : (s.clearChannel).wpb = s.wpb := rfl
@[simp] theorem State.clearChannel_pend (s : State) : (s.clearChannel).pend = s.pend := rfl
@[simp] theorem State.clearChannel_rspPend (s : State) : (s.clearChannel).rspPend = s.rspPend := rfl
@[simp] theorem State.clearChannel_str (s : State) : (s.clearChannel).str = s.str := rfl
@[simp] theorem State.clearChannel_pins (s : State) : (s.clearChannel).pins = s.pins := rfl
@[simp] theorem State.clearChannel_pinsLater (s : State) : (s.clearChannel).pinsLater = s.pinsLater := rfl
@[simp] theorem State.clearChannel_cmdIn (s : State) : (s.clearChannel).cmdIn = s.cmdIn := rfl
@[simp] theorem State.clearChannel_trace (s : State) : (s.clearChannel).trace = s.trace := rfl

/-! ### `setStr` -/

@[simp] theorem State.setStr_isOpen (s : State) (p : Option StrProgress) : (s.setStr p).isOpen = s.isOpen := rfl
@[simp] theorem State.setStr_wop (s : State) (p : Option StrProgress) : (s.setStr p).wop = s.wop := rfl
@[simp] theorem State.setStr_wpb (s : State) (p : Option StrProgress) : (s.setStr p).wpb = s.wpb := rfl
@[simp] theorem State.setStr_pend (s : State) (p : Option StrProgress) : (s.setStr p).pend = s.pend := rfl
@[simp] theorem State.setStr_rspPend (s : State) (p : Option StrProgress) : (s.setStr p).rspPend = s.rspPend := rfl
@[simp] theorem State.setStr_str (s : State) (p : Option StrProgress) : (s.setStr p).str = p := rfl
@[simp] theorem State.setStr_pins (s : State) (p : Option StrProgress) : (s.setStr p).pins = s.pins := rfl
@[simp] theorem State.setStr_pinsLater (s : State) (p : Option StrProgress) : (s.setStr p).pinsLater = s.pinsLater := rfl
@[simp] theorem State.setStr_cmdIn (s : State) (p : Option StrProgress) : (s.setStr p).cmdIn = s.cmdIn := rfl
@[simp] theorem State.setStr_trace (s : State) (p : Option StrProgress) : (s.setStr p).trace = s.trace := rfl

/-! ### `observe` -/

@[simp] theorem State.observe_isOpen (s : State) (e : Event) : (s.observe e).isOpen = s.isOpen := rfl
@[simp] theorem State.observe_wop (s : State) (e : Event) : (s.observe e).wop = s.wop := rfl
@[simp] theorem State.observe_wpb (s : State) (e : Event) : (s.observe e).wpb = s.wpb := rfl
@[simp] theorem State.observe_pend (s : State) (e : Event) : (s.observe e).pend = s.pend := rfl
@[simp] theorem State.observe_rspPend (s : State) (e : Event) : (s.observe e).rspPend = s.rspPend := rfl
@[simp] theorem State.observe_str (s : State) (e : Event) : (s.observe e).str = s.str := rfl
@[simp] theorem State.observe_pins (s : State) (e : Event) : (s.observe e).pins = s.pins := rfl
@[simp] theorem State.observe_pinsLater (s : State) (e : Event) : (s.observe e).pinsLater = s.pinsLater := rfl
@[simp] theorem State.observe_cmdIn (s : State) (e : Event) : (s.observe e).cmdIn = s.cmdIn := rfl
@[simp] theorem State.observe_trace (s : State) (e : Event) : (s.observe e).trace = s.trace ++ [e] := rfl

/-! ### `resetEngine` -/

@[simp] theorem State.resetEngine_isOpen (s : State) : (s.resetEngine).isOpen = false := rfl
@[simp] theorem State.resetEngine_wop (s : State) : (s.resetEngine).wop = none := rfl
@[simp] theorem State.resetEngine_wpb (s : State) : (s.resetEngine).wpb = 0 := rfl
@[simp] theorem State.resetEngine_pend (s : State) : (s.resetEngine).pend = [] := rfl
@[simp] theorem State.resetEngine_rspPend (s : State) : (s.resetEngine).rspPend = none := rfl
@[simp] theorem State.resetEngine_str (s : State) : (s.resetEngine).str = none := rfl
@[simp] theorem State.resetEngine_pins (s : State) : (s.resetEngine).pins = s.pins := rfl
@[simp] theorem State.resetEngine_pinsLater (s : State) : (s.resetEngine).pinsLater = s.pinsLater := rfl
@[simp] theorem State.resetEngine_cmdIn (s : State) : (s.resetEngine).cmdIn = s.cmdIn := rfl
@[simp] theorem State.resetEngine_trace (s : State) : (s.resetEngine).trace = s.trace := rfl

/-! ### `emitAll`, `emitIfOpen` and what is built on them: only `pend` changes -/

@[simp] theorem State.emitAll_isOpen (s : State) (l : List Bit) : (s.emitAll l).isOpen = s.isOpen := by
  unfold State.emitAll; split <;> rfl

@[simp] theorem State.emitAll_wop (s : State) (l : List Bit) : (s.emitAll l).wop = s.wop := by
  unfold State.emitAll; split <;> rfl

@[simp] theorem State.emitAll_wpb (s : State) (l : List Bit) : (s.emitAll l).wpb = s.wpb := by
  unfold State.emitAll; split <;> rfl

@[simp] theorem State.emitAll_rspPend (s : State) (l : List Bit) : (s.emitAll l).rspPend = s.rspPend := by
  unfold State.emitAll; split <;> rfl

@[simp] theorem State.emitAll_str (s : State) (l : List Bit) : (s.emitAll l).str = s.str := by
  unfold State.emitAll; split <;> rfl

@[simp] theorem State.emitAll_pins (s : State) (l : List Bit) : (s.emitAll l).pins = s.pins := by
  unfold State.emitAll; split <;> rfl

@[simp] theorem State.emitAll_pinsLater (s : State) (l : List Bit) : (s.emitAll l).pinsLater = s.pinsLater := by
  unfold State.emitAll; split <;> rfl

@[simp] theorem State.emitAll_cmdIn (s : State) (l : List Bit) : (s.emitAll l).cmdIn = s.cmdIn := by
  unfold State.emitAll; split <;> rfl

@[simp] theorem State.emitAll_trace (s : State) (l : List Bit) : (s.emitAll l).trace = s.trace := by
  unfold State.emitAll; split <;> rfl

@[simp] theorem State.emitIfOpen_isOpen (s : State) (l : List Bit) : (s.emitIfOpen l).isOpen = s.isOpen := by
  unfold State.emitIfOpen; split <;> simp

@[simp] theorem State.emitIfOpen_wop (s : State) (l : List Bit) : (s.emitIfOpen l).wop = s.wop := by
  unfold State.emitIfOpen; split <;> simp

@[simp] theorem State.emitIfOpen_wpb (s : State) (l : List Bit) : (s.emitIfOpen l).wpb = s.wpb := by
  unfold State.emitIfOpen; split <;> simp

@[simp] theorem State.emitIfOpen_rspPend (s : State) (l : List Bit) : (s.emitIfOpen l).rspPend = s.rspPend := by
  unfold State.emitIfOpen; split <;> simp

@[simp] theorem State.emitIfOpen_str (s : State) (l : List Bit) : (s.emitIfOpen l).str = s.str := by
  unfold State.emitIfOpen; split <;> simp

@[simp] theorem State.emitIfOpen_pins (s : State) (l : List Bit) : (s.emitIfOpen l).pins = s.pins := by
  unfold State.emitIfOpen; split <;> simp

@[simp] theorem State.emitIfOpen_pinsLater (s : State) (l : List Bit) : (s.emitIfOpen l).pinsLater = s.pinsLater := by
  unfold State.emitIfOpen; split <;> simp

@[simp] theorem State.emitIfOpen_cmdIn (s : State) (l : List Bit) : (s.emitIfOpen l).cmdIn = s.cmdIn := by
  unfold State.emitIfOpen; split <;> simp

@[simp] theorem State.emitIfOpen_trace (s : State) (l : List Bit) : (s.emitIfOpen l).trace = s.trace := by
  unfold State.emitIfOpen; split <;> simp

@[simp] theorem State.bitWrite_isOpen (s : State) (b : Bit) (w : Nat) : (s.bitWrite b w).isOpen = s.isOpen :=
  s.emitIfOpen_isOpen _

@[simp] theorem State.bitWrite_wop (s : State) (b : Bit) (w : Nat) : (s.bitWrite b w).wop = s.wop :=
  s.emitIfOpen_wop _

@[simp] theorem State.bitWrite_wpb (s : State) (b : Bit) (w : Nat) : (s.bitWrite b w).wpb = s.wpb :=
  s.emitIfOpen_wpb _

@[simp] theorem State.bitWrite_rspPend (s : State) (b : Bit) (w : Nat) : (s.bitWrite b w).rspPend = s.rspPend :=
  s.emitIfOpen_rspPend _

@[simp] theorem State.bitWrite_str (s : State) (b : Bit) (w : Nat) : (s.bitWrite b w).str = s.str :=
  s.emitIfOpen_str _

@[simp] theorem State.bitWrite_pins (s : State) (b : Bit) (w : Nat) : (s.bitWrite b w).pins = s.pins :=
  s.emitIfOpen_pins _

@[simp] theorem State.bitWrite_pinsLater (s : State) (b : Bit) (w : Nat) : (s.bitWrite b w).pinsLater = s.pinsLater :=
  s.emitIfOpen_pinsLater _

@[simp] theorem State.bitWrite_cmdIn (s : State) (b : Bit) (w : Nat) : (s.bitWrite b w).cmdIn = s.cmdIn :=
  s.emitIfOpen_cmdIn _

@[simp] theorem State.bitWrite_trace (s : State) (b : Bit) (w : Nat) : (s.bitWrite b w).trace = s.trace :=
  s.emitIfOpen_trace _

@[simp] theorem State.sendBytes_isOpen (s : State) (l : List Byte) : (s.sendBytes l).isOpen = s.isOpen :=
  s.emitIfOpen_isOpen _

@[simp] theorem State.sendBytes_wop (s : State) (l : List Byte) : (s.sendBytes l).wop = s.wop :=
  s.emitIfOpen_wop _

@[simp] theorem State.sendBytes_wpb (s : State) (l : List Byte) : (s.sendBytes l).wpb = s.wpb :=
  s.emitIfOpen_wpb _

@[simp] theorem State.sendBytes_rspPend (s : State) (l : List Byte) : (s.sendBytes l).rspPend = s.rspPend :=
  s.emitIfOpen_rspPend _

@[simp] theorem State.sendBytes_str (s : State) (l : List Byte) : (s.sendBytes l).str = s.str :=
  s.emitIfOpen_str _

@[simp] theorem State.sendBytes_pins (s : State) (l : List Byte) : (s.sendBytes l).pins = s.pins :=
  s.emitIfOpen_pins _

@[simp] theorem State.sendBytes_pinsLater (s : State) (l : List Byte) : (s.sendBytes l).pinsLater = s.pinsLater :=
  s.emitIfOpen_pinsLater _

@[simp] theorem State.sendBytes_cmdIn (s : State) (l : List Byte) : (s.sendBytes l).cmdIn = s.cmdIn :=
  s.emitIfOpen_cmdIn _

@[simp] theorem State.sendBytes_trace (s : State) (l : List Byte) : (s.sendBytes l).trace = s.trace :=
  s.emitIfOpen_trace _

/-! ### `advancePins` and `takeBeat` -/

@[simp] theorem State.advancePins_isOpen (s : State) : s.advancePins.isOpen = s.isOpen := by
  unfold State.advancePins; split <;> rfl

@[simp] theorem State.advancePins_wop (s : State) : s.advancePins.wop = s.wop := by
  unfold State.advancePins; split <;> rfl

@[simp] theorem State.advancePins_wpb (s : State) : s.advancePins.wpb = s.wpb := by
  unfold State.advancePins; split <;> rfl

@[simp] theorem State.advancePins_pend (s : State) : s.advancePins.pend = s.pend := by
  unfold State.advancePins; split <;> rfl

@[simp] theorem State.advancePins_rspPend (s : State) : s.advancePins.rspPend = s.rspPend := by
  unfold State.advancePins; split <;> rfl

@[simp] theorem State.advancePins_str (s : State) : s.advancePins.str = s.str := by
  unfold State.advancePins; split <;> rfl

@[simp] theorem State.advancePins_cmdIn (s : State) : s.advancePins.cmdIn = s.cmdIn := by
  unfold State.advancePins; split <;> rfl

@[simp] theorem State.advancePins_trace (s : State) : s.advancePins.trace = s.trace := by
  unfold State.advancePins; split <;> rfl

@[simp] theorem State.takeBeat_isOpen (s : State) (w : Beat) (rest : List Beat) : (s.takeBeat w rest).isOpen = s.isOpen := by
  simp [State.takeBeat]

@[simp] theorem State.takeBeat_wop (s : State) (w : Beat) (rest : List Beat) : (s.takeBeat w rest).wop = s.wop := by
  simp [State.takeBeat]

@[simp] theorem State.takeBeat_wpb (s : State) (w : Beat) (rest : List Beat) : (s.takeBeat w rest).wpb = s.wpb := by
  simp [State.takeBeat]

@[simp] theorem State.takeBeat_pend (s : State) (w : Beat) (rest : List Beat) : (s.takeBeat w rest).pend = s.pend := by
  simp [State.takeBeat]

@[simp] theorem State.takeBeat_rspPend (s : State) (w : Beat) (rest : List Beat) : (s.takeBeat w rest).rspPend = s.rspPend := by
  simp [State.takeBeat]

@[simp] theorem State.takeBeat_str (s : State) (w : Beat) (rest : List Beat) : (s.takeBeat w rest).str = s.str := by
  simp [State.takeBeat]

@[simp] theorem State.takeBeat_cmdIn (s : State) (w : Beat) (rest : List Beat) : (s.takeBeat w rest).cmdIn = rest := by
  simp [State.takeBeat]

@[simp] theorem State.takeBeat_trace (s : State) (w : Beat) (rest : List Beat) : (s.takeBeat w rest).trace = s.trace ++ [.cmd w] := by
  simp [State.takeBeat]

/-! ### What the ports show -/

@[simp] theorem State.cmdReady_eq_true (s : State) : s.cmdReady = true ↔ s.pend = [] ∧ s.rspPend = none := by
  simp [State.cmdReady]

@[simp] theorem State.wrValid_eq_true (s : State) : s.wrValid = true ↔ s.pend ≠ [] := by
  simp [State.wrValid]

@[simp] theorem State.rspOk_eq_some (s : State) (ok : Bool) :
    s.rspOk = some ok ↔ s.pins.rst = false ∧ s.pend = [] ∧ s.rspPend = some ok := by
  cases hr : s.pins.rst <;> cases hp : s.pend <;> cases hq : s.rspPend <;> simp [State.rspOk, State.rspValid, hr, hp, hq]

@[simp] theorem State.rspOk_isSome (s : State) : s.rspOk.isSome = s.rspValid := by
  simp only [State.rspOk]
  split <;> simp_all [State.rspValid]

/-- No response pulse is given in a cycle with `rst` = 1 (60_exceptions.md R123). -/
theorem State.rspValid_of_rst {s : State} (h : s.pins.rst = true) : s.rspValid = false := by
  simp [State.rspValid, h]

end Sys2Proof.Machine
end

