-- ==== Sys2Proof/Laws/Ops.lean ====
section
/-! SUPPORT. What each shared operation of Machine/Ops.lean does, said once. -/

namespace Sys2Proof.Machine

/-! ### Emission -/

theorem State.emitAll_of_none {s : State} (h : s.wop = none) (l : List Bit) : s.emitAll l = s := by
  simp [State.emitAll, h]

theorem State.emitAll_of_some {s : State} {id : WopId} (h : s.wop = some id) (l : List Bit) :
    s.emitAll l = { s with pend := s.pend ++ l.map (fun b => { id := id, bit := b }) } := by
  simp [State.emitAll, h]

@[simp] theorem State.emitAll_nil (s : State) : s.emitAll [] = s := by
  unfold State.emitAll; split <;> simp

/-- Emission appends, in order. -/
theorem State.emitAll_emitAll (s : State) (l l' : List Bit) : (s.emitAll l).emitAll l' = s.emitAll (l ++ l') := by
  cases h : s.wop with
  | none => simp [State.emitAll, h]
  | some id => simp [State.emitAll, h]

/-- `EmitAll` is `Emit` of every element in list order (R9). -/
theorem State.emitAll_eq_foldl (s : State) (l : List Bit) : s.emitAll l = l.foldl State.rawWrite s := by
  induction l generalizing s with
  | nil => simp
  | cons b l ih => rw [List.foldl_cons, ← ih, State.rawWrite, State.emitAll_emitAll]; rfl

theorem State.emitIfOpen_of_closed {s : State} (h : s.isOpen = false) (l : List Bit) : s.emitIfOpen l = s := by
  simp [State.emitIfOpen, h]

theorem State.emitIfOpen_of_open {s : State} (h : s.isOpen = true) (l : List Bit) : s.emitIfOpen l = s.emitAll l := by
  simp [State.emitIfOpen, h]

/-- All that gated emission can do: nothing, or append events that carry the identifier held. -/
theorem State.emitIfOpen_cases (s : State) (l : List Bit) :
    s.emitIfOpen l = s ∨
      ∃ id, s.isOpen = true ∧ s.wop = some id ∧
        s.emitIfOpen l = { s with pend := s.pend ++ l.map (fun b => { id := id, bit := b }) } := by
  by_cases ho : s.isOpen = true
  · rw [State.emitIfOpen_of_open ho]
    obtain hw | ⟨id, hw⟩ : s.wop = none ∨ ∃ id, s.wop = some id := by cases s.wop <;> simp
    · exact .inl (State.emitAll_of_none hw l)
    · exact .inr ⟨id, ho, hw, State.emitAll_of_some hw l⟩
  · exact .inl (State.emitIfOpen_of_closed (by simpa using ho) l)

theorem State.sendBytes_of_closed {s : State} (h : s.isOpen = false) (l : List Byte) : s.sendBytes l = s :=
  State.emitIfOpen_of_closed h _

theorem State.sendBytes_of_open {s : State} {id : WopId} (ho : s.isOpen = true) (hw : s.wop = some id)
    (l : List Byte) :
    s.sendBytes l = { s with pend := s.pend ++ (bytes l s.wpb.toNat).map (fun b => { id := id, bit := b }) } := by
  rw [State.sendBytes, State.emitIfOpen_of_open ho, State.emitAll_of_some hw]

/-- A packet sent in parts is sent as one. -/
theorem State.sendBytes_sendBytes (s : State) (l l' : List Byte) :
    (s.sendBytes l).sendBytes l' = s.sendBytes (l ++ l') := by
  cases ho : s.isOpen with
  | false => simp [State.sendBytes, State.emitIfOpen, ho]
  | true => simp [State.sendBytes, State.emitIfOpen, ho, State.emitAll_emitAll, bytes_append]

/-! ### The levels and the beat stream -/

theorem State.advancePins_of_nil {s : State} (h : s.pinsLater = []) : s.advancePins = s := by
  simp [State.advancePins, h]

theorem State.advancePins_of_cons {s : State} {p : Pins} {ps : List Pins} (h : s.pinsLater = p :: ps) :
    s.advancePins = { s with pins := p, pinsLater := ps } := by
  simp [State.advancePins, h]

/-- The levels after a step, in one form. -/
theorem State.advancePins_eq (s : State) :
    s.advancePins = { s with pins := s.pinsLater.head?.getD s.pins, pinsLater := s.pinsLater.tail } := by
  cases h : s.pinsLater with
  | nil => rw [State.advancePins_of_nil h]; cases s; simp_all
  | cons p ps => rw [State.advancePins_of_cons h]; simp

/-- A beat is taken exactly when one is there and offered. -/
theorem fetchBeat_eq_some {s t : State} {w : Beat} :
    fetchBeat s = some (w, t) ↔ s.pins.cmdValid = true ∧ ∃ rest, s.cmdIn = w :: rest ∧ t = s.takeBeat w rest := by
  unfold fetchBeat
  constructor
  · intro h
    split at h
    · split at h
      · simp at h
      · simp only [Option.some.injEq, Prod.mk.injEq] at h
        obtain ⟨rfl, rfl⟩ := h
        exact ⟨‹_›, _, ‹_›, rfl⟩
    · simp at h
  · rintro ⟨hv, rest, hc, rfl⟩
    simp [hv, hc]

theorem fetchBeat_eq_none {s : State} : fetchBeat s = none ↔ s.pins.cmdValid = false ∨ s.cmdIn = [] := by
  unfold fetchBeat
  cases s.pins.cmdValid <;> cases s.cmdIn <;> simp

/-! ### What one step can do -/

/-- The five kinds of step, each with what enables it (R35, R36, R38, R135). -/
theorem step_cases (s : State) :
    (s.pins.rst = true ∧ step s = resetStep s) ∨
    (∃ e rest, s.pins.rst = false ∧ s.pend = e :: rest ∧ step s = writePortStep e rest s) ∨
    (∃ ok, s.pins.rst = false ∧ s.pend = [] ∧ s.rspPend = some ok ∧ step s = responseStep ok s) ∨
    (∃ w s', s.pins.rst = false ∧ s.pend = [] ∧ s.rspPend = none ∧ fetchBeat s = some (w, s') ∧
      step s = beatStep w s') ∨
    (s.pins.rst = false ∧ s.pend = [] ∧ s.rspPend = none ∧ fetchBeat s = none ∧ step s = waitStep s) := by
  cases hr : s.pins.rst with
  | true => simp [step, hr]
  | false =>
    cases hp : s.pend with
    | cons e rest => simp [step, hr, hp]
    | nil =>
      cases hq : s.rspPend with
      | some ok => simp [step, hr, hp, hq]
      | none =>
        cases hf : fetchBeat s with
        | some x => exact .inr (.inr (.inr (.inl ⟨x.1, x.2, by simp [step, hr, hp, hq, hf]⟩)))
        | none => simp [step, hr, hp, hq, hf]

end Sys2Proof.Machine
end

