-- ==== Sys2Proof/Laws/Runs.lean ====
section
/-! SUPPORT. Small lemmas about runs, assembled streams and what a state owes. -/

namespace Sys2Proof.Machine

@[simp] theorem run_zero (s : State) : run 0 s = .next s := rfl

theorem run_succ_of_next {s t : State} (h : step s = .next t) (k : Nat) : run (k + 1) s = run k t := by
  simp [run, h]

/-- A run is a run and then a run. -/
theorem run_add_of_next {s t : State} {k : Nat} (h : run k s = .next t) (n : Nat) : run (k + n) s = run n t := by
  induction k generalizing s with
  | zero => cases h; simp
  | succ k ih =>
    rw [Nat.succ_add]
    simp only [run] at h ⊢
    cases hs : step s with
    | next u => rw [hs] at h; exact ih h
    | fault r => rw [hs] at h; cases h
    | refused r => rw [hs] at h; cases h

theorem State.takeBeat_eq (s : State) (w : Beat) (rest : List Beat) : s.takeBeat w rest = s.afterBeat w rest := by
  rw [State.takeBeat, State.advancePins_eq]; rfl

@[simp] theorem assemble_nil : assemble [] = [] := rfl

theorem assemble_cons (c : Command) (cs : List Command) :
    assemble (c :: cs) = encode c.header :: (c.payload.map payloadBeat ++ assemble cs) := rfl

/-- The header of every command is one a header beat can encode (R60, R62). -/
theorem Command.header_wf (c : Command) : c.header.wf = true := by
  match c with
  | .openChannel _ _ _ | .closeChannel | .calibrate | .writeByte _ | .writeString none _ | .writeString (some _) _
  | .writeDecimal _ _ | .writeUint8 _ | .writeUint16 _ | .writeUint32 _ => rfl

@[simp] theorem outputs_append (a b : List Event) : outputs (a ++ b) = outputs a ++ outputs b := List.filter_append ..

@[simp] theorem outputs_cmd (w : Beat) : outputs [.cmd w] = [] := rfl

@[simp] theorem outputs_wr (id : WopId) (b : Bit) : outputs [.wr id b] = [.wr id b] := rfl

@[simp] theorem outputs_rsp (ok : Bool) : outputs [.rsp ok] = [.rsp ok] := rfl

@[simp] theorem outputs_reset : outputs [.reset] = [] := rfl

theorem writeEvents_append (id : WopId) (l l' : List Bit) :
    writeEvents id (l ++ l') = writeEvents id l ++ writeEvents id l' := List.map_append

@[simp] theorem length_writeEvents (id : WopId) (l : List Bit) : (writeEvents id l).length = l.length := by
  simp [writeEvents]

theorem Channel.writes_append (ch : Channel) (l l' : List Bit) :
    ch.writes (l ++ l') = ch.writes l ++ ch.writes l' := by
  unfold Channel.writes
  split
  · split <;> simp
  · rfl

/-- In a state whose channel is open exactly when a write operation is held, gated emission appends what the channel
writes. -/
theorem State.emitIfOpen_owed (s : State) (l : List Bit) :
    (s.emitIfOpen l).pend.map WriteEvent.event = s.pend.map WriteEvent.event ++ s.channel.writes l := by
  unfold State.emitIfOpen State.emitAll Channel.writes State.channel
  cases s.isOpen
  · simp
  · cases s.wop <;> simp [WriteEvent.event, Function.comp_def]

end Sys2Proof.Machine
end

