-- ==== Sys2Proof/Tests/Slice0.lean ====
section
/-! SUPPORT. Tests of the model against the spec's own examples and vectors (30_encoding.md R64, 95_test_vectors.md),
and for every statement with hypotheses a witness that meets them together. -/

open Sys2Proof Sys2Proof.Machine

namespace Sys2Proof.Tests

/-- An open, idle engine holding an identifier and a width. -/
def openState (id : WopId) (wpb : Word) : State := { State.reset with isOpen := true, wop := some id, wpb := wpb }

/-- The next state of an outcome. -/
def nextOf (o : Host.Outcome State Fault Refusal) : Option State :=
  match o with
  | .next s => some s
  | .fault _ => none
  | .refused _ => none

/-- The Bits an outcome leaves pending. -/
def pendingBits (o : Host.Outcome State Fault Refusal) : Option (List Bit) :=
  (nextOf o).map fun s => s.pend.map (·.bit)

/-- The text of a command in the syntax of R61, as a parsed command's beats. -/
def beatsOf (text : String) : Option (List Beat) := (parseCommand text.toList).map Command.beats

/-! ### Well-formedness -/

theorem test_wf_refuses_absent_text_with_length : (Instr.writeString false 3 0).wf = false := by decide

theorem test_wf_accepts_absent_text : (Instr.writeString false 0 5).wf = true := by decide

/-! ### Decoding: words written out from R49 and R64, X1 to X16 -/

/-- X1, bit by bit: B = 1000, A = 9600, ID = 0, RSV = 0, P = 1, OP = 0x01. -/
theorem test_decode_open_by_fields :
    decode ((1000#32 ++ 9600#32 ++ 0b0000#4 ++ 0b000#3 ++ 0b1#1 ++ 0b00000001#8 : BitVec 80)) =
      .ok (.openChannel 9600 (some 0) 1000) := by decide

theorem test_decode_open_wop3 :
    decode 0x000001F40001C2003101 = .ok (.openChannel 115200 (some 3) 500) := by decide

theorem test_decode_open_absent : decode 0x000003E8000025800001 = .ok (.openChannel 9600 none 1000) := by decide

/-- S22: RSV = 7 is ignored. -/
theorem test_decode_open_rsv :
    decode 0x000003E800002580FF01 = .ok (.openChannel 9600 (some 15) 1000) := by decide

/-- X16: every ignored bit set. -/
theorem test_decode_close_ignored : decode 0xFFFFFFFFFFFFFFFFFF02 = .ok .closeChannel := by decide

theorem test_decode_calibrate : decode 0x00000000000000000003 = .ok .calibrate := by decide

/-- X7: A[31:8] is ignored. -/
theorem test_decode_write_byte : decode 0x00000000000001410004 = .ok (.writeByte 0x41) := by decide

theorem test_decode_write_string : decode 0x00000004000000020105 = .ok (.writeString true 2 4) := by decide

/-- X9: without P, A is not the length. -/
theorem test_decode_write_string_absent : decode 0x00000005000000030005 = .ok (.writeString false 0 5) := by decide

/-- X10. -/
theorem test_decode_write_decimal : decode 0x0000000C800000000006 = .ok (.writeDecimal 0x80000000 12) := by decide

/-- X11. -/
theorem test_decode_write_uint8 : decode 0x000000000001231B0007 = .ok (.writeUint8 0x1B) := by decide

/-- X12. -/
theorem test_decode_write_uint16 : decode 0x0000000000012A4C0008 = .ok (.writeUint16 0x2A4C) := by decide

theorem test_decode_write_uint32 : decode 0x00000000DEADBEEF0009 = .ok (.writeUint32 0xDEADBEEF) := by decide

/-- X14. -/
theorem test_decode_reserved : decode 0x123456789ABCDEF0127F = .error (.reservedOpcode 0x7F) := by decide

/-- X15. -/
theorem test_decode_first_reserved : decode 0x0000000000000000000A = .error (.reservedOpcode 0x0A) := by decide

theorem test_encode_open : encode (.openChannel 115200 (some 3) 500) = 0x000001F40001C2003101 := by decide

theorem test_encode_write_decimal : encode (.writeDecimal (-1234) 10) = 0x0000000AFFFFFB2E0006 := by decide

theorem test_payload_length : payloadBeats 0x0000000A000000040105 = 4 ∧ payloadBeats 0x00000005000000030005 = 0 := by
  decide

theorem test_table_word : decodeTableWord 80 0x02 = some .closeChannel ∧ decodeTableWord 80 0x0A = none := by decide

/-! ### The textual syntax: R61, R64 -/

theorem test_text_open : beatsOf "OPEN 115200, wop3, 500" = some [0x000001F40001C2003101] := by decide

theorem test_text_string :
    beatsOf "WRITE_STRING \"Test\", 10" =
      some [0x0000000A000000040105, 0x54, 0x65, 0x73, 0x74] := by decide

theorem test_text_escape_and_absent :
    beatsOf "WRITE_STRING \"\\xFF\\x80\", 0" = some [0x00000000000000020105, 0xFF, 0x80] ∧
      beatsOf "WRITE_STRING absent, 0" = some [0x05] ∧ beatsOf "WRITE_STRING \"\", 0" = some [0x105] := by decide

theorem test_text_decimal : beatsOf "WRITE_DECIMAL -1234, 10" = some [0x0000000AFFFFFB2E0006] := by decide

theorem test_text_hex : beatsOf "WRITE_UINT32 0xDEADBEEF" = some [0x00000000DEADBEEF0009] := by decide

theorem test_text_no_operand : beatsOf "CLOSE" = some [0x02] ∧ beatsOf "CALIBRATE" = some [0x03] := by decide

/-! ### OPEN and CLOSE: S1, S13, S14, S17, S21 -/

theorem test_open_width :
    ((nextOf (exec (.openChannel 9600 (some 0) 1000) State.reset)).map
      fun s => (s.isOpen, s.wop, s.wpb, s.pend.length, s.rspPend)) = some (true, some 0, 104, 104, some true) := by
  decide

theorem test_open_rounds_down_twice : writesPerBit 3 7 = 47619047 ∧ writesPerBit 9600 104167 = 0 := by decide

theorem test_reopen_failure_keeps_the_channel :
    nextOf (exec (.openChannel 1000000 (some 0) 0) (openState 0 1)) =
      some { openState 0 1 with rspPend := some false } := by decide

theorem test_close_keeps_width :
    ((nextOf (exec .closeChannel (openState 0 104))).map fun s => (s.isOpen, s.wop, s.wpb)) =
      some (false, none, 104) := by decide

/-! ### The Byte Framer: W5, W9 -/

theorem test_write_byte :
    pendingBits (exec (.writeByte 0x41) (openState 0 1)) =
      some [false, true, false, false, false, false, false, true, false, true] := by decide

theorem test_write_byte_width3 :
    pendingBits (exec (.writeByte 0x2D) (openState 0 3)) =
      some (List.replicate 3 false ++ List.replicate 3 true ++ List.replicate 3 false ++ List.replicate 6 true ++
        List.replicate 3 false ++ List.replicate 3 true ++ List.replicate 6 false ++ List.replicate 3 true) := by
  decide

/-! ### The Formatters: F14, F15, F20, F23, F24, F25 -/

theorem test_write_decimal_padded :
    decimalText (-1234) 10 = [0x20, 0x20, 0x20, 0x20, 0x20, 0x2D, 0x31, 0x32, 0x33, 0x34] := by decide

theorem test_write_decimal_least :
    decimalText 0x80000000 12 = [0x20, 0x2D, 0x32, 0x31, 0x34, 0x37, 0x34, 0x38, 0x33, 0x36, 0x34, 0x38] := by decide

theorem test_write_decimal_zero_and_inner_zeros :
    decimalText 0 3 = [0x20, 0x20, 0x30] ∧ decimalText 100 5 = [0x20, 0x20, 0x31, 0x30, 0x30] := by decide

/-- F27. -/
theorem test_write_uint8 :
    pendingBits (exec (.writeUint8 0x1B) (openState 1 1)) =
      some [false, true, false, false, false, true, true, false, false, true,
        false, false, true, false, false, false, false, true, false, true] := by decide

theorem test_hex2_letters : hex2 0x0A = [0x30, 0x41] ∧ hex2 0x9F = [0x39, 0x46] := by decide

theorem test_write_uint16 : hex4 0x2A4C = [0x32, 0x41, 0x34, 0x43] ∧ hex4 0x00FF = [0x30, 0x30, 0x46, 0x46] := by
  decide

theorem test_write_uint32 : hex8 0x89ABCDEF = [0x38, 0x39, 0x41, 0x42, 0x43, 0x44, 0x45, 0x46] := by decide

/-- The step-by-step vector of R93, steps 1 and 13. -/
theorem test_write_string_header :
    ((nextOf (exec (.writeString true 2 4) (openState 1 1))).map fun s => (s.str, s.pend)) =
      some (some { remaining := 2, written := 0, width := 4 }, []) := by decide

theorem test_write_string_last_payload :
    pendingBits (execPayload { remaining := 1, written := 1, width := 4 } 0x69 (openState 1 1)) =
      some [false, true, false, false, true, false, true, true, false, true,
        false, false, false, false, false, false, true, false, false, true,
        false, false, false, false, false, false, true, false, false, true] := by decide

/-! ### Calibration: K1, K4 -/

theorem test_calibrate_example :
    calSeq 2 4 2 =
      List.replicate 4 true ++
        (List.replicate 10 [false, false, true, true]).flatten ++ List.replicate 4 true := by decide

theorem test_calibrate_without_idle :
    calSeq 1 0 1 = [false, true, false, true, false, true, false, true, false, true] := by decide

/-! ### The steps: Z1, Z4, Z5 -/

/-- Z1, P5: reset drops the pending events. -/
theorem test_reset_drops_pending :
    ((nextOf (step { openState 0 2 with
        pend := [{ id := 0, bit := true }], str := some { remaining := 1, written := 0, width := 0 },
        pins := { Pins.quiet with rst := true } })).map
      fun s => (s.isOpen, s.pend, s.str, s.trace)) = some (false, [], none, [.reset]) := by decide

/-- R38, R123: the response pulse, and no pulse in a cycle with `rst` = 1. -/
theorem test_no_response_pulse_in_reset :
    let pulse := fun rst : Bool =>
      let s := { openState 0 2 with rspPend := some true, pins := { Pins.quiet with rst := rst } }
      (s.rspValid, s.rspOk)
    pulse false = (true, some true) ∧ pulse true = (false, none) := by decide

/-- Z4: after a reset the beat of a character is a header, here a reserved one. -/
theorem test_header_after_reset :
    ((nextOf (step { State.reset with cmdIn := [0x48] })).map fun s => (s.cmdIn, s.trace, s.busy)) =
      some ([], [.cmd 0x48], false) := by decide

/-- Z5: no beat is taken while events are pending. -/
theorem test_busy_engine_takes_no_beat :
    ((nextOf (step { openState 3 1 with pend := [{ id := 3, bit := false }], cmdIn := [0x02] })).map
      fun s => (s.cmdIn, s.isOpen, s.trace)) = some ([0x02], true, [.wr 3 false]) := by decide

theorem test_placed_word_runs :
    ((nextOf (step (State.reset.withFetchWord 80 0x00000004000000020105))).map (·.str)) =
      some (some { remaining := 2, written := 0, width := 4 }) := by decide

/-! ### The reference sink: P5 -/

theorem test_sink_reads_symbols : readSymbols 2 2 (bytes [0x48, 0x69] 2) = some [0x48, 0x69] := by decide

theorem test_sink_line_left_at_space : sinkLine 0 [.wr 0 true, .wr 0 false, .reset] = false := by decide

/-! ### Witnesses: for every statement with hypotheses, a state and operands that meet them together -/

theorem reset_inv : State.reset.Inv := by constructor <;> simp [State.reset, wpbReachable]

theorem openState_inv : (openState 3 104).Inv := by constructor <;> simp [openState, State.reset, wpbReachable]

theorem witness_ResetWorksInAnyState :
    ∃ s : State, s.pins.rst = true ∧ s.pend ≠ [] :=
  ⟨{ openState 0 1 with pend := [{ id := 0, bit := true }], pins := { Pins.quiet with rst := true } }, by decide⟩

/-- Both clauses of OPEN, the first at the least valid operands. -/
theorem witness_OpenSetsTheChannelOrFails :
    ((1 : Word) ≠ 0 ∧ (1 : Word) ≠ 0) ∧
      ((0 : Word) = 0 ∨ some (15 : WopId) = none ∨ (1 : Word) = 0) ∧
      ((1 : Word) = 0 ∨ (none : Option WopId) = none ∨ (1 : Word) = 0) ∧
      ((1 : Word) = 0 ∨ some (15 : WopId) = none ∨ (0 : Word) = 0) := by decide

theorem witness_OpenSucceedsWithWidthZero :
    (9600 : Word) ≠ 0 ∧ (104167 : Word) ≠ 0 ∧ 1000000000 / (9600 : Word).toNat < (104167 : Word).toNat ∧
      ¬1000000000 / (9600 : Word).toNat < (104166 : Word).toNat := by decide

/-- Both clauses, the second with the response still behind a write event, leaving, and dropped by a reset. -/
theorem witness_StatusShowsTheNewChannelAtOnce :
    ((9600 : Word) ≠ 0 ∧ (1000 : Word) ≠ 0) ∧
      ∀ s ∈ [{ openState 0 1 with rspPend := some true, pend := [{ id := 0, bit := true }] },
          { openState 0 1 with rspPend := some true },
          { openState 0 1 with rspPend := some true, pins := { Pins.quiet with rst := true } }],
        s.rspPend = some true ∧ ∃ t, step s = .next t := by
  refine ⟨by decide, fun s hs => ?_⟩
  simp only [List.mem_cons, List.not_mem_nil, or_false] at hs
  rcases hs with rfl | rfl | rfl <;> exact ⟨rfl, _, rfl⟩

theorem witness_CloseIsIdempotent :
    ∃ s t u : State, exec .closeChannel s = .next t ∧ exec .closeChannel t = .next u ∧ s ≠ t :=
  ⟨openState 0 1, _, _, rfl, rfl, by decide⟩

/-- Both clauses of WRITE_BYTE, the open one at a width with events to look at. -/
theorem witness_WriteByteSendsOneSymbol :
    (∃ (s : State) (id : WopId), s.isOpen = true ∧ s.wop = some id ∧ s.wpb ≠ 0) ∧ ∃ s : State, s.isOpen = false :=
  ⟨⟨openState 15 3, 15, by decide⟩, ⟨State.reset, rfl⟩⟩

theorem witness_HexFormattersSendFixedWidthUpperCase :
    (∃ (s : State) (id : WopId), s.isOpen = true ∧ s.wop = some id ∧ s.wpb ≠ 0) ∧ ∃ s : State, s.isOpen = false :=
  ⟨⟨openState 0 1, 0, by decide⟩, ⟨State.reset, rfl⟩⟩

theorem witness_WriteDecimalSendsThePaddedNumber :
    (∃ (s : State) (id : WopId), s.isOpen = true ∧ s.wop = some id ∧ s.wpb ≠ 0) ∧ ∃ s : State, s.isOpen = false :=
  ⟨⟨openState 7 1, 7, by decide⟩, ⟨State.reset, rfl⟩⟩

theorem witness_WriteDecimalOfTheMostNegativeValue :
    ∃ (s : State) (id : WopId), s.isOpen = true ∧ s.wop = some id := ⟨openState 7 1, 7, by decide⟩

/-- Both clauses of CALIBRATE, the open one at width 0. -/
theorem witness_CalibrateSendsTheAlternatingPattern :
    (∃ (s : State) (id : WopId), s.isOpen = true ∧ s.wop = some id ∧ s.wpb = 0) ∧ ∃ s : State, s.isOpen = false :=
  ⟨⟨openState 2 0, 2, by decide⟩, ⟨State.reset, rfl⟩⟩

/-- Both clauses of the header, at the shortest and the longest text. -/
theorem witness_WriteStringHeaderStartsThePacket :
    (true = true ∧ (1 : Word) ≠ 0 ∧ (0xFFFFFFFF : Word) ≠ 0) ∧ ((false = false ∨ (7 : Word) = 0)) ∧
      (true = false ∨ (0 : Word) = 0) := by decide

/-- A payload beat, not the last and the last, on an open and on a closed channel. -/
theorem witness_PayloadBeatSendsItsCharacter :
    ∀ n : Word, ∀ s ∈ [openState 0 1, State.reset],
      ∃ (t : State) (p : StrProgress), t.takes 0x48 [] ∧ t.str = some p ∧ p.remaining = n ∧ t.isOpen = s.isOpen ∧
        t.wop = s.wop := by
  intro n s hs
  refine ⟨{ s with str := some { remaining := n, written := 0, width := 4 }, cmdIn := [0x48] },
    { remaining := n, written := 0, width := 4 }, ?_, rfl, rfl, rfl, rfl⟩
  simp only [List.mem_cons, List.not_mem_nil, or_false] at hs
  rcases hs with rfl | rfl <;> exact ⟨rfl, rfl, rfl, rfl, rfl⟩

theorem witness_StepRunsTheDecodedHeader :
    ∃ (s : State) (w : Beat) (i : Instr), s.takes w [] ∧ s.str = none ∧ decode w = .ok i :=
  ⟨{ openState 0 1 with cmdIn := [0x00000000000000410004] }, 0x00000000000000410004, .writeByte 0x41,
    ⟨rfl, rfl, rfl, rfl, rfl⟩, rfl, by decide⟩

/-- Both ends of the reserved range. -/
theorem witness_ReservedOpcodeIsTakenAndIgnored :
    ∀ w ∈ ([0x00, 0x0A, 0xFF] : List Beat),
      (∃ s : State, s.takes w [] ∧ s.str = none) ∧
        ((w.extractLsb' 0 8).toNat = 0 ∨ 10 ≤ (w.extractLsb' 0 8).toNat) := by
  intro w hw
  refine ⟨⟨{ State.reset with cmdIn := [w] }, ⟨rfl, rfl, rfl, rfl, rfl⟩, rfl⟩, ?_⟩
  simp only [List.mem_cons, List.not_mem_nil, or_false] at hw
  rcases hw with rfl | rfl | rfl <;> decide

theorem witness_WritePortStepSendsTheOldestEvent :
    ∀ ready : Bool, ∃ (s : State) (e : WriteEvent) (rest : List WriteEvent),
      s.pins.rst = false ∧ s.pend = e :: rest ∧ s.pins.wrReady = ready :=
  fun ready => ⟨{ openState 3 1 with pend := [{ id := 3, bit := true }], pins := { Pins.quiet with wrReady := ready } },
    _, _, rfl, rfl, rfl⟩

theorem witness_ResponseStepFollowsTheWrites :
    ∃ s : State, s.pins.rst = false ∧ s.pend = [] ∧ s.rspPend = some true :=
  ⟨{ openState 0 1 with rspPend := some true }, by decide⟩

theorem witness_EngineWaitsForABeat :
    (∃ s : State, s.pins.rst = false ∧ s.pend = [] ∧ s.rspPend = none ∧ s.pins.cmdValid = false ∧ s.cmdIn ≠ []) ∧
      ∃ s : State, s.pins.rst = false ∧ s.pend = [] ∧ s.rspPend = none ∧ s.cmdIn = [] :=
  ⟨⟨{ State.reset with cmdIn := [0x02], pins := { Pins.quiet with cmdValid := false } }, by decide⟩,
    ⟨State.reset, by decide⟩⟩

/-- Each event: the response, the raw write, the beat, the reset. -/
theorem witness_PortsShowTheEventOfTheStep :
    (∃ s t : State, step s = .next t ∧ t.trace = s.trace ++ [.rsp true]) ∧
      (∃ s t : State, step s = .next t ∧ t.trace = s.trace ++ [.wr 15 true]) ∧
      (∃ s t : State, step s = .next t ∧ t.trace = s.trace ++ [.cmd 0x02]) ∧
      ∃ s t : State, step s = .next t ∧ t.trace = s.trace ++ [.reset] :=
  ⟨⟨{ openState 0 1 with rspPend := some true }, _, rfl, rfl⟩,
    ⟨{ openState 15 1 with pend := [{ id := 15, bit := true }] }, _, rfl, rfl⟩,
    ⟨{ State.reset with cmdIn := [0x02] }, _, rfl, rfl⟩,
    ⟨{ State.reset with pins := { Pins.quiet with rst := true } }, _, rfl, rfl⟩⟩

theorem witness_BeatsAreTakenOnlyWhenReady :
    (∃ s t : State, step s = .next t ∧ t.cmdIn ≠ s.cmdIn) ∧ ∃ s t : State, step s = .next t ∧ t.cmdIn = s.cmdIn :=
  ⟨⟨{ State.reset with cmdIn := [0x02] }, _, rfl, by decide⟩, ⟨State.reset, _, rfl, by decide⟩⟩

theorem witness_SilentSinkHangsTheEngine :
    ∃ s : State, s.pins.rst = false ∧ s.pins.wrReady = false ∧ s.pinsLater = [] ∧ s.pend ≠ [] :=
  ⟨{ openState 3 1 with pend := [{ id := 3, bit := true }], pins := { Pins.quiet with wrReady := false } }, by decide⟩

/-- Both clauses: CLOSE changes the channel, OPEN its width. -/
theorem witness_OnlyOpenAndCloseChangeTheChannel :
    (∃ s t : State, step s = .next t ∧ s.pins.rst = false ∧ t.channel ≠ s.channel ∧ t.wpb = s.wpb) ∧
      ∃ s t : State, step s = .next t ∧ s.pins.rst = false ∧ t.wpb ≠ s.wpb :=
  ⟨⟨{ openState 0 1 with cmdIn := [0x02] }, _, rfl, rfl, by decide, rfl⟩,
    ⟨{ State.reset with cmdIn := [0x000003E8000F42400101] }, _, rfl, rfl, by decide⟩⟩

theorem witness_OnlyOpenResponds :
    ∃ (i : Instr) (s t : State), exec i s = .next t ∧ t.rspPend ≠ s.rspPend :=
  ⟨.openChannel 0 none 0, State.reset, _, rfl, by decide⟩

/-- The step clause at the last payload beat of a packet on a closed channel, and the command clause. -/
theorem witness_NothingIsWrittenWhileClosed :
    (∃ s t : State, s.Inv ∧ s.isOpen = false ∧ s.str ≠ none ∧ step s = .next t ∧ t.isOpen = false ∧ s ≠ t) ∧
      ∃ (i : Instr) (s t : State), exec i s = .next t ∧ s.isOpen = false ∧ t.isOpen = false :=
  ⟨⟨{ State.reset with str := some { remaining := 1, written := 0, width := 4 }, cmdIn := [0x48] }, _,
      by constructor <;> simp [State.reset, wpbReachable], rfl, by decide, rfl, rfl, by decide⟩,
    .writeByte 0x42, State.reset, _, rfl, rfl, rfl⟩

theorem witness_EveryStepKeepsTheInvariant : ∃ s t : State, s.Inv ∧ step s = .next t ∧ s ≠ t :=
  ⟨State.reset.withFetchWord 80 0x000001F4000F42400101, _,
    by constructor <;> simp [State.reset, State.withFetchWord, wpbReachable], rfl, by decide⟩

theorem witness_DecodeOfEncodeIsTheCommand : ∃ i : Instr, i.wf = true := ⟨.writeString true 0xFFFFFFFF 0, rfl⟩

/-- A header of each opcode, at two beats that differ in ignored bits only, meets the premises. -/
theorem witness_IgnoredBitsHaveNoEffect :
    (0xFFFFFFFFFFFFFFFFFF02 : Beat).extractLsb' 0 8 = (0x02 : Beat).extractLsb' 0 8 ∧
      (0x00000000000001410004 : Beat).extractLsb' 16 8 = (0x00000000000000410004 : Beat).extractLsb' 16 8 ∧
      (0xFFFFFFFFFFFFFFFFFF48 : Beat).extractLsb' 0 8 = (0x48 : Beat).extractLsb' 0 8 := by decide

theorem witness_OpcodeAloneSelectsTheCommand : ∃ (w : Beat) (i : Instr), decode w = .ok i := ⟨0x02, _, rfl⟩

theorem witness_PlacedWordRunsAtTheNextStep :
    ∃ (nbits w : Nat) (i : Instr), decodeTableWord nbits w = some i := ⟨80, 0x02, .closeChannel, by decide⟩

/-- Both clauses, at a command with payload beats and at one with none. -/
theorem witness_AssembledPacketsAreComplete :
    (∃ c : Command, c.wf = true ∧ c.payload.length = 2) ∧ (∃ c : Command, c.wf = true ∧ c.payload = []) ∧
      ∃ cs : List Command, cs ≠ [] ∧ ∀ c ∈ cs, c.wf = true :=
  ⟨⟨.writeString (some [0x48, 0x69]) 4, by decide⟩, ⟨.writeString none 4, by decide⟩,
    ⟨[.writeString (some [0x48, 0x69]) 4, .closeChannel], by decide⟩⟩

theorem witness_CommandsMakeTheTabledRawWrites :
    (∃ ch : Channel, ch.isOpen = true ∧ (ch.isOpen = true ↔ ch.wop.isSome = true)) ∧
      ∃ ch : Channel, ch.isOpen = false ∧ (ch.isOpen = true ↔ ch.wop.isSome = true) :=
  ⟨⟨(openState 0 1).channel, by decide⟩, ⟨State.reset.channel, by decide⟩⟩

theorem witness_OpenRespondsAfterItsIdleBitWrite :
    ∃ s : State, s.quiet ∧ s.idle = true ∧ s.cmdIn = encode (.openChannel 1000000 (some 0) 500) :: [] ∧
      (1000000 : Word) ≠ 0 ∧ (500 : Word) ≠ 0 :=
  ⟨{ State.reset with cmdIn := [encode (.openChannel 1000000 (some 0) 500)] }, ⟨rfl, rfl⟩, rfl, rfl, by decide,
    by decide⟩

theorem witness_PendingEventsDrainInOrder : ∃ s : State, s.quiet ∧ s.pend ≠ [] :=
  ⟨{ openState 3 1 with pend := [{ id := 3, bit := true }] }, ⟨rfl, rfl⟩, by decide⟩

theorem witness_StringPacketSendsTextThenPadding :
    ∃ (s : State) (text : List Byte), s.quiet ∧ s.idle = true ∧ s.isOpen = true ∧ s.wop = some 1 ∧ text ≠ [] ∧
      text.length < 2 ^ 32 ∧ s.cmdIn = (Command.writeString (some text) 4).beats ++ [] :=
  ⟨{ openState 1 1 with cmdIn := (Command.writeString (some [0x48, 0x69]) 4).beats }, [0x48, 0x69], ⟨rfl, rfl⟩, rfl,
    rfl, rfl, by decide, by decide, by simp⟩

/-- For `RunsSendOnlyTheCommandsEvents` and `EndedRunsSentEverything`: a CLOSE run to its end. -/
theorem witness_EndedRunsSentEverything :
    ∃ (cs : List Command) (s t : State) (k : Nat), (∀ c ∈ cs, c.wf = true) ∧ s.Inv ∧ s.idle = true ∧
      s.cmdIn = assemble cs ∧ run k s = .next t ∧ resets t.trace = resets s.trace ∧ t.ended :=
  ⟨[.closeChannel], { openState 3 104 with cmdIn := assemble [.closeChannel] }, _, 1, by decide,
    by constructor <;> simp [openState, State.reset, wpbReachable], rfl, rfl, rfl, by decide, rfl, rfl⟩

theorem witness_RunsSendOnlyTheCommandsEvents :
    ∃ (cs : List Command) (s t : State) (k : Nat), (∀ c ∈ cs, c.wf = true) ∧ s.Inv ∧ s.idle = true ∧
      s.cmdIn = assemble cs ∧ run k s = .next t ∧ resets t.trace = resets s.trace ∧ s ≠ t :=
  ⟨[.writeByte 0x41], { openState 3 104 with cmdIn := assemble [.writeByte 0x41] }, _, 1, by decide,
    by constructor <;> simp [openState, State.reset, wpbReachable], rfl, rfl, rfl, by decide, by decide⟩

theorem witness_FairRunsEnd :
    ∃ (cs : List Command) (s : State), (∀ c ∈ cs, c.wf = true) ∧ s.Inv ∧ s.idle = true ∧ s.cmdIn = assemble cs ∧
      s.fair ∧ s.pins ≠ Pins.quiet :=
  ⟨[.writeByte 0x41],
    { openState 3 104 with
      cmdIn := assemble [.writeByte 0x41], pins := { Pins.quiet with wrReady := false }, pinsLater := [Pins.quiet] },
    by decide, by constructor <;> simp [openState, State.reset, wpbReachable], rfl, rfl,
    ⟨⟨rfl, by decide⟩, rfl⟩, by decide⟩

theorem witness_SinkReadsTheBytesBack : ∃ (w : Nat) (l : List Byte), 0 < w ∧ l ≠ [] := ⟨1, [0x48], by decide⟩

theorem witness_WriteEventDrivesItsLineOnly : ∃ id other : WopId, other ≠ id := ⟨0, 15, by decide⟩

end Sys2Proof.Tests
end

section
/-! PROOFS. What every command leaves behind, whatever the state it finds: events of its own identifier behind those
pending, and the environment as it was (00_scope.md R9, 10_state.md R16, 20_memory.md R42 (e)). -/

namespace Sys2Proof.Machine

/-- `t` is `s` after a command: `PEND` is extended by events that carry the identifier `t` holds, and the beat stream,
the trace and the levels are those of `s`. -/
structure State.AppendsOwnEvents (s t : State) : Prop where
  pend : ∃ sent : List WriteEvent, t.pend = s.pend ++ sent ∧ ∀ e ∈ sent, t.wop = some e.id
  cmdIn : t.cmdIn = s.cmdIn
  trace : t.trace = s.trace
  pins : t.pins = s.pins
  pinsLater : t.pinsLater = s.pinsLater

namespace State.AppendsOwnEvents

theorem of_pend_eq {s t : State} (pend : t.pend = s.pend) (cmdIn : t.cmdIn = s.cmdIn) (trace : t.trace = s.trace)
    (pins : t.pins = s.pins) (pinsLater : t.pinsLater = s.pinsLater) : s.AppendsOwnEvents t :=
  ⟨⟨[], by simp [pend], by simp⟩, cmdIn, trace, pins, pinsLater⟩

theorem refl (s : State) : s.AppendsOwnEvents s := of_pend_eq rfl rfl rfl rfl rfl

theorem clearChannel (s : State) : s.AppendsOwnEvents s.clearChannel := of_pend_eq rfl rfl rfl rfl rfl

theorem setStr (s : State) (p : Option StrProgress) : s.AppendsOwnEvents (s.setStr p) :=
  of_pend_eq rfl rfl rfl rfl rfl

/-- Scheduling a response afterwards changes nothing of this. -/
theorem respond {s t : State} (h : s.AppendsOwnEvents t) (ok : Bool) : s.AppendsOwnEvents (t.respond ok) :=
  ⟨h.pend, h.cmdIn, h.trace, h.pins, h.pinsLater⟩

/-- Neither does writing the channel registers beforehand: the identifier that counts is the one held at the end. -/
theorem of_setChannel {s t : State} {id : WopId} {wpb : Word} (h : (s.setChannel id wpb).AppendsOwnEvents t) :
    s.AppendsOwnEvents t :=
  ⟨h.pend, h.cmdIn, h.trace, h.pins, h.pinsLater⟩

theorem emitIfOpen (s : State) (l : List Bit) : s.AppendsOwnEvents (s.emitIfOpen l) := by
  obtain hs | ⟨id, -, hw, hs⟩ := s.emitIfOpen_cases l
  · rw [hs]; exact refl s
  · rw [hs]; exact ⟨⟨_, rfl, List.forall_mem_map.2 fun _ _ => hw⟩, rfl, rfl, rfl, rfl⟩

theorem bitWrite (s : State) (b : Bit) (w : Nat) : s.AppendsOwnEvents (s.bitWrite b w) := emitIfOpen s _

theorem sendBytes (s : State) (l : List Byte) : s.AppendsOwnEvents (s.sendBytes l) := emitIfOpen s _

end State.AppendsOwnEvents

open State (AppendsOwnEvents)

/-- OPEN, on each of its three paths (R67, R68). -/
theorem execOpen_appendsOwnEvents (baudRate : Word) (wop : Option WopId) (writeDurationNs : Word) (s : State) :
    ∃ t, execOpen baudRate wop writeDurationNs s = .next t ∧ s.AppendsOwnEvents t := by
  cases wop with
  | none => exact ⟨_, rfl, (AppendsOwnEvents.refl s).respond false⟩
  | some id =>
    by_cases hv : openOperandsValid baudRate writeDurationNs = true
    · exact ⟨_, if_pos hv, (AppendsOwnEvents.of_setChannel (.bitWrite _ _ _)).respond true⟩
    · exact ⟨_, if_neg hv, (AppendsOwnEvents.refl s).respond false⟩

/-- The header of WRITE_STRING sends nothing, whether it starts a packet or not (R93, R94). -/
theorem execWriteString_appendsOwnEvents (textPresent : Bool) (len width : Word) (s : State) :
    ∃ t, execWriteString textPresent len width s = .next t ∧ s.AppendsOwnEvents t := by
  by_cases hp : (textPresent && decide (len ≠ 0)) = true
  · exact ⟨_, if_pos hp, .setStr s _⟩
  · exact ⟨_, if_neg hp, .refl s⟩

/-- Every command completes, and appends at most events of its own identifier. -/
theorem exec_appendsOwnEvents (i : Instr) (s : State) : ∃ t, exec i s = .next t ∧ s.AppendsOwnEvents t := by
  cases i with
  | openChannel baudRate wop writeDurationNs => exact execOpen_appendsOwnEvents baudRate wop writeDurationNs s
  | closeChannel => exact ⟨_, rfl, .clearChannel s⟩
  | calibrate => exact ⟨_, rfl, .emitIfOpen s _⟩
  | writeString textPresent len width => exact execWriteString_appendsOwnEvents textPresent len width s
  | writeByte | writeDecimal | writeUint8 | writeUint16 | writeUint32 => exact ⟨_, rfl, .sendBytes s _⟩

end Sys2Proof.Machine

namespace Sys2Proof

open Machine

/-- Settles O28, from what each command leaves behind (`exec_appendsOwnEvents`). -/
theorem commandsOnlyAppendTheirOwnEvents : Obligations.CommandsOnlyAppendTheirOwnEvents := by
  intro i s
  obtain ⟨t, ht, ⟨sent, hpend, hid⟩, hcmdIn, htrace, hpins, hpinsLater⟩ := exec_appendsOwnEvents i s
  exact ⟨t, sent, ht, hpend, hid, hcmdIn, htrace, hpins, hpinsLater⟩

end Sys2Proof
end

section
/-! PROOFS. What one step does, as one case per kind of step, and what a command and a payload beat do to the state,
as one case per effect (20_memory.md R33 to R38). -/

namespace Sys2Proof.Machine

/-- `s` steps to `t`, by the kind of the step and, at the command port, by what is read from the beat. -/
inductive State.StepsTo (s : State) : State → Prop where
  | reset (rst : s.pins.rst = true) : s.StepsTo (s.resetEngine.observe .reset).advancePins
  | write {e : WriteEvent} {rest : List WriteEvent} (rst : s.pins.rst = false) (pend : s.pend = e :: rest) :
      s.StepsTo (({ s with pend := rest }).observe (.wr e.id e.bit)).advancePins
  | response {ok : Bool} (rst : s.pins.rst = false) (pend : s.pend = []) (rsp : s.rspPend = some ok) :
      s.StepsTo (({ s with rspPend := none }).observe (.rsp ok)).advancePins
  | payload {w : Beat} {rest : List Beat} {p : StrProgress} {t : State} (takes : s.takes w rest)
      (str : s.str = some p) (effect : execPayload p w (s.takeBeat w rest) = .next t) : s.StepsTo t
  | header {w : Beat} {rest : List Beat} {i : Instr} {t : State} (takes : s.takes w rest) (str : s.str = none)
      (dec : decode w = .ok i) (effect : exec i (s.takeBeat w rest) = .next t) : s.StepsTo t
  | reserved {w : Beat} {rest : List Beat} {e : DecodeError} (takes : s.takes w rest) (str : s.str = none)
      (dec : decode w = .error e) : s.StepsTo (s.takeBeat w rest)
  | wait (rst : s.pins.rst = false) : s.StepsTo s.advancePins

/-- The three things the command port can do with the beat it takes (R35, R48, R58). -/
theorem stepsTo_of_beatStep {s t : State} {w : Beat} {rest : List Beat} (htakes : s.takes w rest)
    (h : beatStep w (s.takeBeat w rest) = .next t) : s.StepsTo t := by
  simp only [beatStep, State.takeBeat_str] at h
  split at h
  case h_1 p hstr => exact .payload htakes hstr h
  case h_2 hstr =>
    split at h
    case h_1 i hdec => exact .header htakes hstr hdec h
    case h_2 e hdec => cases h; exact .reserved htakes hstr hdec

/-- A step is of one of these kinds. -/
theorem stepsTo_of_step {s t : State} (h : step s = .next t) : s.StepsTo t := by
  obtain ⟨hr, hs⟩ | ⟨e, rest, hr, hp, hs⟩ | ⟨ok, hr, hp, hq, hs⟩ | ⟨w, s', hr, hp, hq, hf, hs⟩ | ⟨hr, -, -, -, hs⟩ :=
    step_cases s <;> rw [hs] at h
  · cases h; exact .reset hr
  · unfold writePortStep at h
    split at h <;> cases h
    · exact .write hr hp
    · exact .wait hr
  · cases h; exact .response hr hp hq
  · obtain ⟨hv, rest, hc, rfl⟩ := fetchBeat_eq_some.1 hf
    exact stepsTo_of_beatStep ⟨hr, hp, hq, hv, hc⟩ h
  · cases h; exact .wait hr

/-- The state after a valid OPEN: the registers, the idle bit-write, the response (R67). -/
def State.opened (s : State) (id : WopId) (wpb : Word) : State :=
  ((s.setChannel id wpb).bitWrite mark wpb.toNat).respond true

@[simp] theorem State.opened_isOpen (s : State) (id : WopId) (wpb : Word) : (s.opened id wpb).isOpen = true := by
  simp [State.opened]

@[simp] theorem State.opened_wop (s : State) (id : WopId) (wpb : Word) : (s.opened id wpb).wop = some id := by
  simp [State.opened]

@[simp] theorem State.opened_wpb (s : State) (id : WopId) (wpb : Word) : (s.opened id wpb).wpb = wpb := by
  simp [State.opened]

@[simp] theorem State.opened_pend (s : State) (id : WopId) (wpb : Word) :
    (s.opened id wpb).pend = s.pend ++ List.replicate wpb.toNat { id := id, bit := mark } := by
  rw [State.opened, State.bitWrite, State.emitIfOpen_of_open rfl, State.emitAll_of_some (id := id) rfl]
  simp [Machine.bitWrite]

@[simp] theorem State.opened_rspPend (s : State) (id : WopId) (wpb : Word) :
    (s.opened id wpb).rspPend = some true := rfl

@[simp] theorem State.opened_str (s : State) (id : WopId) (wpb : Word) : (s.opened id wpb).str = s.str := by
  simp [State.opened]

theorem exec_open_of_valid (s : State) (id : WopId) {baudRate writeDurationNs : Word}
    (h : openOperandsValid baudRate writeDurationNs = true) :
    exec (.openChannel baudRate (some id) writeDurationNs) s =
      .next (s.opened id (writesPerBit baudRate writeDurationNs)) := if_pos h

theorem exec_open_of_invalid (s : State) (id : WopId) {baudRate writeDurationNs : Word}
    (h : ¬openOperandsValid baudRate writeDurationNs = true) :
    exec (.openChannel baudRate (some id) writeDurationNs) s = .next (s.respond false) := if_neg h

/-- The command `i` takes `s` to `t`, by what it does to the engine: the formatters, WRITE_BYTE and CALIBRATE
only emit. -/
inductive State.ExecTo (s : State) (i : Instr) : State → Prop where
  | opened {baudRate writeDurationNs : Word} (id : WopId) (opcode : i.opcode = 0x01) (baud : baudRate ≠ 0)
      (duration : writeDurationNs ≠ 0) : s.ExecTo i (s.opened id (writesPerBit baudRate writeDurationNs))
  | openFailed (opcode : i.opcode = 0x01) : s.ExecTo i (s.respond false)
  | closed (opcode : i.opcode = 0x02) : s.ExecTo i s.clearChannel
  | unchanged : s.ExecTo i s
  | emitted (l : List Bit) : s.ExecTo i (s.emitIfOpen l)
  | started {len : Word} (width : Word) (len_ne : len ≠ 0) :
      s.ExecTo i (s.setStr (some { remaining := len, written := 0, width := width }))

/-- Every command has one of these effects. -/
theorem execTo_of_exec {i : Instr} {s t : State} (h : exec i s = .next t) : s.ExecTo i t := by
  cases i with
  | openChannel baudRate wop writeDurationNs =>
    cases wop with
    | none => cases h; exact .openFailed rfl
    | some id =>
      by_cases hv : openOperandsValid baudRate writeDurationNs = true
      · rw [exec_open_of_valid s id hv] at h; cases h
        obtain ⟨hbaud, hduration⟩ := (openOperandsValid_iff ..).1 hv
        exact .opened id rfl hbaud hduration
      · rw [exec_open_of_invalid s id hv] at h; cases h
        exact .openFailed rfl
  | closeChannel => cases h; exact .closed rfl
  | writeString textPresent len width =>
    simp only [exec, execWriteString] at h
    split at h
    case isTrue hp => cases h; exact .started width (by simpa using (Bool.and_eq_true_iff.1 hp).2)
    case isFalse => cases h; exact .unchanged
  | calibrate | writeByte | writeDecimal | writeUint8 | writeUint16 | writeUint32 => cases h; exact .emitted _

/-- The last payload beat also sends the padding, and ends the packet (R93, R95). -/
theorem execPayload_of_last {p : StrProgress} (h : p.remaining = 1) (w : Beat) (s : State) :
    execPayload p w s =
      .next ((s.sendBytes (chField w :: padding p.width (p.written + 1).toNat)).setStr none) := by
  simp [execPayload, h, State.sendBytes_sendBytes]

/-- Every other payload beat sends its character and counts (R93). -/
theorem execPayload_of_more {p : StrProgress} (h : p.remaining ≠ 1) (w : Beat) (s : State) :
    execPayload p w s =
      .next ((s.sendBytes [chField w]).setStr
        (some { remaining := p.remaining - 1, written := p.written + 1, width := p.width })) :=
  if_neg (by bv_omega)

/-- The opcode of a decoded command is that of the header (R56, R60). -/
theorem opcode_of_decode {w : Beat} {i : Instr} (h : decode w = .ok i) : i.opcode = opField w := by
  unfold decode at h
  split at h <;> cases h <;> exact BitVec.eq_of_toNat_eq (by simp_all [Instr.opcode])

end Sys2Proof.Machine
end

section
/-! PROOFS. The invariant of 10_state.md R18, update by update: what each operation of the model needs to keep it. -/

namespace Sys2Proof.Machine

/-- A width that OPEN computes is the quotient of 10^9 by 1, or by 2 or more (R17). -/
theorem wpbReachable_writesPerBit {baudRate writeDurationNs : Word} (hbaud : baudRate ≠ 0)
    (hduration : writeDurationNs ≠ 0) : wpbReachable (writesPerBit baudRate writeDurationNs) := by
  have hb : 0 < baudRate.toNat := Nat.pos_of_ne_zero (by simpa [BitVec.toNat_eq] using hbaud)
  have hd : 0 < writeDurationNs.toNat := Nat.pos_of_ne_zero (by simpa [BitVec.toNat_eq] using hduration)
  rw [wpbReachable, toNat_writesPerBit, Nat.div_div_eq_div_mul, Config.nsPerSec]
  obtain h1 | h2 : baudRate.toNat * writeDurationNs.toNat = 1 ∨ 2 ≤ baudRate.toNat * writeDurationNs.toNat := by
    have := Nat.mul_pos hb hd
    omega
  · simp [h1]
  · exact .inr (Nat.div_le_div_left h2 (by decide))

namespace State.Inv

/-- The invariant speaks of the six stored elements only (R13). -/
theorem of_engine_eq {s t : State} (h : s.Inv) (isOpen : t.isOpen = s.isOpen) (wop : t.wop = s.wop)
    (wpb : t.wpb = s.wpb) (pend : t.pend = s.pend) (rspPend : t.rspPend = s.rspPend) (str : t.str = s.str) :
    t.Inv := by
  obtain ⟨h1, h2, h3, h4, h5, h6, h7⟩ := h
  constructor <;> simpa only [isOpen, wop, wpb, pend, rspPend, str]

theorem observe {s : State} (h : s.Inv) (e : Event) : (s.observe e).Inv := h.of_engine_eq rfl rfl rfl rfl rfl rfl

theorem advancePins {s : State} (h : s.Inv) : s.advancePins.Inv :=
  h.of_engine_eq (by simp) (by simp) (by simp) (by simp) (by simp) (by simp)

theorem takeBeat {s : State} (h : s.Inv) (w : Beat) (rest : List Beat) : (s.takeBeat w rest).Inv :=
  h.of_engine_eq (by simp) (by simp) (by simp) (by simp) (by simp) (by simp)

theorem resetEngine (s : State) : s.resetEngine.Inv := by
  constructor <;> simp [wpbReachable]

theorem dropWrite {s : State} {e : WriteEvent} {rest : List WriteEvent} (h : s.Inv) (hp : s.pend = e :: rest) :
    ({ s with pend := rest } : State).Inv where
  __ := h
  pend_id e' he' := h.pend_id e' (by simp [hp, he'])
  rsp_fail hq := by simp [h.rsp_fail hq] at hp

theorem dropResponse {s : State} (h : s.Inv) : ({ s with rspPend := none } : State).Inv :=
  { h with rsp_open := nofun, rsp_fail := nofun, rsp_str := nofun }

theorem setStr {s : State} (h : s.Inv) (hq : s.rspPend = none) {p : Option StrProgress}
    (counts : ∀ q ∈ p, 1 ≤ q.remaining.toNat ∧ q.remaining.toNat + q.written.toNat < 2 ^ 32) : (s.setStr p).Inv :=
  { h with rsp_str := by simp [hq], str_counts := counts }

theorem clearChannel {s : State} (h : s.Inv) (hp : s.pend = []) (hq : s.rspPend = none) : s.clearChannel.Inv :=
  { h with open_iff_wop := by simp, pend_id := by simp [hp], rsp_open := by simp [hq] }

theorem respondFalse {s : State} (h : s.Inv) (hp : s.pend = []) (hstr : s.str = none) : (s.respond false).Inv :=
  { h with rsp_open := by simp, rsp_fail := fun _ => hp, rsp_str := fun _ => hstr }

theorem opened {s : State} (hp : s.pend = []) (hstr : s.str = none) (id : WopId) {wpb : Word}
    (hw : wpbReachable wpb) : (s.opened id wpb).Inv where
  open_iff_wop := by simp
  pend_id := by simp +contextual [hp, List.mem_replicate]
  rsp_open := by simp
  rsp_fail := by simp
  rsp_str := by simp [hstr]
  str_counts := by simp [hstr]
  wpb_reachable := by simpa using hw

/-- Gated emission appends events of the identifier held. -/
theorem emitIfOpen {s : State} (h : s.Inv) (hq : s.rspPend = none) (l : List Bit) : (s.emitIfOpen l).Inv := by
  obtain hs | ⟨id, -, hw, hs⟩ := s.emitIfOpen_cases l <;> rw [hs]
  · exact h
  · refine { h with pend_id := fun e he => ?_, rsp_fail := by simp [hq] }
    obtain he | he := List.mem_append.1 he
    · exact h.pend_id e he
    · obtain ⟨b, -, rfl⟩ := List.mem_map.1 he; exact hw

theorem sendBytes {s : State} (h : s.Inv) (hq : s.rspPend = none) (l : List Byte) : (s.sendBytes l).Inv :=
  h.emitIfOpen hq _

/-- A command that finds nothing pending and no packet in progress keeps the invariant. -/
theorem exec {s t : State} {i : Instr} (h : s.Inv) (hp : s.pend = []) (hq : s.rspPend = none) (hstr : s.str = none)
    (ht : s.ExecTo i t) : t.Inv := by
  cases ht with
  | opened id _ hbaud hduration => exact opened hp hstr id (wpbReachable_writesPerBit hbaud hduration)
  | openFailed => exact h.respondFalse hp hstr
  | closed => exact h.clearChannel hp hq
  | unchanged => exact h
  | emitted l => exact h.emitIfOpen hq l
  | @started len width hlen =>
    have hlt := len.isLt
    have hpos : 1 ≤ len.toNat := Nat.pos_of_ne_zero (by simpa [BitVec.toNat_eq] using hlen)
    exact h.setStr hq (by simp; omega)

/-- A payload beat moves one from `remaining` to `written`, and ends the packet before `remaining` is 0. -/
theorem execPayload {s t : State} {p : StrProgress} {w : Beat} (h : s.Inv) (hq : s.rspPend = none)
    (hstr : s.str = some p) (ht : execPayload p w s = .next t) : t.Inv := by
  by_cases hlast : p.remaining = 1
  · rw [execPayload_of_last hlast] at ht; cases ht
    exact (h.sendBytes hq _).setStr (by simpa) (by simp)
  · rw [execPayload_of_more hlast] at ht; cases ht
    refine (h.sendBytes hq _).setStr (by simpa) ?_
    have hcounts := h.str_counts p hstr
    rintro q ⟨⟩
    constructor <;> bv_omega

end State.Inv

/-- A step under the invariant, kind by kind. -/
theorem State.StepsTo.inv {s t : State} (h : s.Inv) (hst : s.StepsTo t) : t.Inv := by
  cases hst with
  | reset => exact ((Inv.resetEngine s).observe _).advancePins
  | write _ hp => exact ((h.dropWrite hp).observe _).advancePins
  | response => exact (h.dropResponse.observe _).advancePins
  | payload htakes hstr ht =>
    obtain ⟨-, -, hq, -⟩ := htakes
    exact (h.takeBeat _ _).execPayload (by simpa) (by simpa) ht
  | header htakes hstr _ ht =>
    obtain ⟨-, hp, hq, -⟩ := htakes
    exact (h.takeBeat _ _).exec (by simpa) (by simpa) (by simpa) (execTo_of_exec ht)
  | reserved => exact h.takeBeat _ _
  | wait => exact h.advancePins

end Sys2Proof.Machine

namespace Sys2Proof

open Machine

/-- Settles O31, by the kind of the step (`State.StepsTo.inv`). -/
theorem everyStepKeepsTheInvariant : Obligations.EveryStepKeepsTheInvariant :=
  fun _ _ hinv h => (stepsTo_of_step h).inv hinv

/-- Settles O30: the reset state is what the engine reset makes of it. -/
theorem invariantHoldsAtReset : Obligations.InvariantHoldsAtReset := State.Inv.resetEngine State.reset

end Sys2Proof
end

section
/-! PROOFS. The statements about a single state or a single step: reset values, the ports and the status outputs, what
changes the channel, and what a closed channel sends (10_state.md R15 to R18, R26 to R28). -/

namespace Sys2Proof.Machine

/-- What `exec_appendsOwnEvents` says, of the state a command is known to answer. -/
theorem appendsOwnEvents_of_exec {i : Instr} {s t : State} (h : exec i s = .next t) : s.AppendsOwnEvents t := by
  obtain ⟨u, hu, happ⟩ := exec_appendsOwnEvents i s
  cases hu.symm.trans h
  exact happ

/-- All that a payload beat can do: send bytes and write `STR` (R93). -/
theorem execPayload_cases {p : StrProgress} {w : Beat} {s t : State} (h : execPayload p w s = .next t) :
    ∃ l q, t = (s.sendBytes l).setStr q := by
  by_cases hlast : p.remaining = 1
  · rw [execPayload_of_last hlast] at h; cases h; exact ⟨_, _, rfl⟩
  · rw [execPayload_of_more hlast] at h; cases h; exact ⟨_, _, rfl⟩

/-! ### What changes the channel -/

@[simp] theorem State.observe_channel (s : State) (e : Event) : (s.observe e).channel = s.channel := rfl

@[simp] theorem State.setStr_channel (s : State) (p : Option StrProgress) : (s.setStr p).channel = s.channel := rfl

@[simp] theorem State.respond_channel (s : State) (ok : Bool) : (s.respond ok).channel = s.channel := rfl

@[simp] theorem State.advancePins_channel (s : State) : s.advancePins.channel = s.channel := by simp [State.channel]

@[simp] theorem State.takeBeat_channel (s : State) (w : Beat) (rest : List Beat) :
    (s.takeBeat w rest).channel = s.channel := by simp [State.channel]

@[simp] theorem State.emitIfOpen_channel (s : State) (l : List Bit) : (s.emitIfOpen l).channel = s.channel := by
  simp [State.channel]

@[simp] theorem State.sendBytes_channel (s : State) (l : List Byte) : (s.sendBytes l).channel = s.channel :=
  s.emitIfOpen_channel _

/-- Only OPEN and CLOSE write the channel registers, and only OPEN the width. -/
theorem State.ExecTo.channel_changed {s t : State} {i : Instr} (h : s.ExecTo i t) :
    (t.channel ≠ s.channel → i.opcode = 0x01 ∨ i.opcode = 0x02) ∧ (t.wpb ≠ s.wpb → i.opcode = 0x01) := by
  cases h with
  | opened _ hop | openFailed hop => simp [hop]
  | closed hop => simp [hop]
  | unchanged | emitted | started => simp

/-- A step without a reset that changes the channel runs the command of the header it takes. -/
theorem State.StepsTo.header_of_channel_ne {s t : State} (h : s.StepsTo t) (hr : s.pins.rst = false)
    (hne : t.channel ≠ s.channel) :
    s.str = none ∧ ∃ w i, s.cmdIn = w :: t.cmdIn ∧ i.opcode = opField w ∧ (s.takeBeat w t.cmdIn).ExecTo i t := by
  cases h with
  | reset hr' => simp [hr] at hr'
  | write | response => exact absurd (advancePins_channel _) hne
  | payload _ _ ht => obtain ⟨l, q, rfl⟩ := execPayload_cases ht; simp at hne
  | @header w rest i _ htakes hstr hdec ht =>
    obtain ⟨-, -, -, -, hc⟩ := htakes
    have hrest : t.cmdIn = rest := by simpa using (appendsOwnEvents_of_exec ht).cmdIn
    subst hrest
    exact ⟨hstr, w, i, hc, opcode_of_decode hdec, execTo_of_exec ht⟩
  | reserved | wait => simp at hne

/-! ### What a closed channel sends -/

/-- Every pending event has its identifier in `WOP`, which a closed channel does not hold (R18). -/
theorem State.Inv.pend_of_closed {s : State} (h : s.Inv) (hc : s.isOpen = false) : s.pend = [] := by
  refine List.eq_nil_iff_forall_not_mem.2 fun e he => ?_
  have hopen := h.open_iff_wop.2 (by simp [h.pend_id e he])
  simp [hc] at hopen

/-- A command that finds the channel closed and leaves it closed appends nothing (R18 d). -/
theorem State.ExecTo.pend_of_closed {s t : State} {i : Instr} (h : s.ExecTo i t) (hs : s.isOpen = false)
    (ht : t.isOpen = false) : t.pend = s.pend := by
  cases h with
  | opened => simp at ht
  | openFailed | closed | unchanged | started => rfl
  | emitted l => rw [emitIfOpen_of_closed hs]

/-- With nothing pending on a closed channel, no step adds a raw write to the trace. -/
theorem State.StepsTo.no_write {s t : State} (h : s.StepsTo t) (hp : s.pend = []) :
    ∃ added : List Event, t.trace = s.trace ++ added ∧ ∀ e ∈ added, e.isWrite = false := by
  cases h with
  | reset => exact ⟨[.reset], by simp, by simp [Event.isWrite]⟩
  | write _ hp' => simp [hp] at hp'
  | @response ok => exact ⟨[.rsp ok], by simp, by simp [Event.isWrite]⟩
  | @payload w _ _ _ _ _ ht =>
    obtain ⟨l, q, rfl⟩ := execPayload_cases ht
    exact ⟨[.cmd w], by simp, by simp [Event.isWrite]⟩
  | @header w _ _ _ _ _ _ ht =>
    exact ⟨[.cmd w], by simp [(appendsOwnEvents_of_exec ht).trace], by simp [Event.isWrite]⟩
  | @reserved w => exact ⟨[.cmd w], by simp, by simp [Event.isWrite]⟩
  | wait => exact ⟨[], by simp, by simp⟩

/-- With nothing pending on a closed channel, no step but that of an OPEN makes a write event pending. -/
theorem State.StepsTo.pend_of_closed {s t : State} (h : s.StepsTo t) (hp : s.pend = []) (hs : s.isOpen = false)
    (ht : t.isOpen = false) : t.pend = [] := by
  cases h with
  | reset => simp
  | write _ hp' => simp [hp] at hp'
  | payload _ _ hexec =>
    obtain ⟨l, q, rfl⟩ := execPayload_cases hexec
    rw [sendBytes_of_closed (by simpa)]; simpa
  | header _ _ _ hexec => simpa [hp] using (execTo_of_exec hexec).pend_of_closed (by simpa) ht
  | response | reserved | wait => simpa

/-! ### A pending response -/

/-- A pending response stays until the step that sends it or a reset (R24, R137). -/
theorem State.StepsTo.rspPend_kept {s t : State} {ok : Bool} (h : s.StepsTo t) (hq : s.rspPend = some ok) :
    t.rspPend = some ok ∨ t.trace = s.trace ++ [.rsp ok] ∨ t.trace = s.trace ++ [.reset] := by
  cases h with
  | reset => simp
  | write | wait => simp [hq]
  | response _ _ hq' => simp_all
  | payload htakes | header htakes | reserved htakes => obtain ⟨-, -, hq', -⟩ := htakes; simp [hq] at hq'

/-! ### A placed word -/

/-- A table word that decodes is a header beat that decodes. -/
theorem decodeTableWord_eq_some {nbits w : Nat} {i : Instr} :
    decodeTableWord nbits w = some i ↔ decode (tableBeat nbits w) = .ok i := by
  unfold decodeTableWord
  cases decode (tableBeat nbits w) <;> simp

/-- The step that takes a header runs its command (R35). -/
theorem step_of_takes_header {s : State} {w : Beat} {rest : List Beat} {i : Instr} (htakes : s.takes w rest)
    (hstr : s.str = none) (hdec : decode w = .ok i) : step s = exec i (s.afterBeat w rest) := by
  obtain ⟨hr, hp, hq, hv, hc⟩ := htakes
  have hf : fetchBeat s = some (w, s.takeBeat w rest) := fetchBeat_eq_some.2 ⟨hv, rest, hc, rfl⟩
  rw [← State.takeBeat_eq]
  simp [step, hr, hp, hq, hf, beatStep, hstr, hdec]

end Sys2Proof.Machine

namespace Sys2Proof

open Machine

/-- Settles O25: a change of the channel is the work of a header's command (`State.StepsTo.header_of_channel_ne`), and
of the commands only OPEN and CLOSE change it (`State.ExecTo.channel_changed`). -/
theorem onlyOpenAndCloseChangeTheChannel : Obligations.OnlyOpenAndCloseChangeTheChannel := by
  intro s t h hr
  have hst := stepsTo_of_step h
  constructor
  · intro hne
    obtain ⟨hstr, w, i, hc, hop, hexec⟩ := hst.header_of_channel_ne hr hne
    exact ⟨hstr, w, hc, hop ▸ hexec.channel_changed.1 (by simpa using hne)⟩
  · intro hne
    obtain ⟨hstr, w, i, hc, hop, hexec⟩ := hst.header_of_channel_ne hr (hne <| congrArg Channel.wpb ·)
    exact ⟨hstr, w, hc, hop ▸ hexec.channel_changed.2 (by simpa using hne)⟩

/-- Settles O27: under the invariant a closed channel has nothing pending, and no step changes that unless it opens the
channel. -/
theorem nothingIsWrittenWhileClosed : Obligations.NothingIsWrittenWhileClosed := by
  constructor
  · intro s t hinv hs h
    have hp := hinv.pend_of_closed hs
    have hst := stepsTo_of_step h
    exact ⟨hst.no_write hp, hst.pend_of_closed hp hs⟩
  · intro i s t h hs ht
    exact (execTo_of_exec h).pend_of_closed hs ht

/-- Settles O1, by evaluation of the one fixed state. -/
theorem resetStateHoldsTheResetValues : Obligations.ResetStateHoldsTheResetValues := by
  unfold Obligations.ResetStateHoldsTheResetValues
  decide

/-- Settles O5, from the state a valid OPEN leaves (`exec_open_of_valid`) and what becomes of a pending response. -/
theorem statusShowsTheNewChannelAtOnce : Obligations.StatusShowsTheNewChannelAtOnce := by
  constructor
  · intro s baudRate writeDurationNs id hbaud hduration
    refine ⟨_, exec_open_of_valid s id ((openOperandsValid_iff ..).2 ⟨hbaud, hduration⟩), ?_⟩
    simp [State.stOpen, State.stWopPresent, State.stWopId, State.stWpb, State.stBusy, State.busy, toNat_writesPerBit,
      Config.nsPerSec]
  · intro s t ok hq h
    exact ⟨by simp [State.stBusy, State.busy, hq], (stepsTo_of_step h).rspPend_kept hq⟩

/-- Settles O21, by what `PEND` and `RSP_PEND` are when each port is up. -/
theorem portsExcludeEachOther : Obligations.PortsExcludeEachOther := by
  intro s
  rw [State.cmdReady_eq_true, State.wrValid_eq_true]
  refine ⟨?_, ?_, ?_, ?_⟩
  · rintro ⟨⟨hp, -⟩, hne⟩; exact hne hp
  · rintro ⟨hne, hv⟩; simp [State.rspValid, hne] at hv
  · rintro ⟨⟨-, hq⟩, hv⟩; simp [State.rspValid, hq] at hv
  · simp [State.busy, and_assoc]

/-- Settles O22: the placed word is the header beat the next step takes (`step_of_takes_header`). -/
theorem placedWordRunsAtTheNextStep : Obligations.PlacedWordRunsAtTheNextStep :=
  fun _ _ _ _ h => step_of_takes_header ⟨rfl, rfl, rfl, rfl, rfl⟩ rfl (decodeTableWord_eq_some.1 h)

end Sys2Proof
end

section
/-! PROOFS. What a run of an assembled command list has sent and has still to send: the events of its commands, in
order, whatever the environment does other than reset the engine (20_memory.md R42, R46). -/

namespace Sys2Proof

/-- The header of a well-formed command decodes to it (R60, R62). -/
theorem decode_encode {i : Instr} (h : i.wf = true) : decode (encode i) = .ok i := by
  cases i with
  | openChannel _ wop _ => cases wop <;> simp [encode, decode]
  | writeString textPresent len width => cases textPresent <;> simp_all [encode, decode, Instr.wf]
  | closeChannel | calibrate | writeByte | writeDecimal | writeUint8 | writeUint16 | writeUint32 =>
    simp [encode, decode]

namespace Machine

/-! ### Resets in a run -/

/-- A step adds a reset to the trace exactly when it samples one (R135). -/
theorem State.StepsTo.resets {s t : State} (h : s.StepsTo t) :
    resets t.trace = resets s.trace + s.pins.rst.toNat := by
  cases h with
  | reset hr | write hr | response hr => simp [hr, Machine.resets]
  | wait hr => simp [hr]
  | payload htakes _ ht =>
    obtain ⟨hr, -⟩ := htakes
    obtain ⟨l, q, rfl⟩ := execPayload_cases ht
    simp [hr, Machine.resets]
  | header htakes _ _ ht =>
    obtain ⟨hr, -⟩ := htakes
    simp [hr, (appendsOwnEvents_of_exec ht).trace, Machine.resets]
  | reserved htakes =>
    obtain ⟨hr, -⟩ := htakes
    simp [hr, Machine.resets]

/-- A run that goes on has made its first step. -/
theorem step_of_run_succ {s t : State} {k : Nat} (h : run (k + 1) s = .next t) :
    ∃ u, step s = .next u ∧ run k u = .next t := by
  simp only [run] at h
  split at h
  case h_1 u hu => exact ⟨u, hu, h⟩
  all_goals cases h

/-- A run never takes a reset off the trace. -/
theorem resets_le_of_run {s t : State} {k : Nat} (h : run k s = .next t) : resets s.trace ≤ resets t.trace := by
  induction k generalizing s with
  | zero => cases h; exact le_rfl
  | succ k ih =>
    obtain ⟨u, hu, hrun⟩ := step_of_run_succ h
    have hstep := (stepsTo_of_step hu).resets
    have hrest := ih hrun
    omega

/-- What every step without a reset keeps, a run without a reset keeps. -/
theorem run_invariant {P : State → Prop}
    (hP : ∀ s t, P s → s.pins.rst = false → s.StepsTo t → P t) {s t : State} {k : Nat} (h : run k s = .next t)
    (hresets : resets t.trace = resets s.trace) (hs : P s) : P t := by
  induction k generalizing s with
  | zero => cases h; exact hs
  | succ k ih =>
    obtain ⟨u, hu, hrun⟩ := step_of_run_succ h
    have hst := stepsTo_of_step hu
    have hstep := hst.resets
    have hrest := resets_le_of_run hrun
    have hrst : s.pins.rst.toNat = 0 := by omega
    exact ih hrun (by omega) (hP s u hs (by simpa using hrst) hst)

/-! ### The packet in progress -/

theorem State.idle_eq_true (s : State) : s.idle = true ↔ s.pend = [] ∧ s.rspPend = none ∧ s.str = none := by
  simp [idle, busy, and_assoc]

/-- The payload beats still to come of the packet in progress (R25). -/
def State.beatsDue (s : State) : Nat :=
  match s.str with
  | none => 0
  | some p => p.remaining.toNat

/-- The bytes still to be sent of the packet in progress, `text` being its characters still to come: these and the
padding (R93, R95). -/
def State.bytesDue (s : State) (text : List Byte) : List Byte :=
  match s.str with
  | none => []
  | some p => text ++ padding p.width (p.written.toNat + text.length)

theorem State.beatsDue_of_none {s : State} (h : s.str = none) : s.beatsDue = 0 := by simp [beatsDue, h]

theorem State.beatsDue_of_some {s : State} {p : StrProgress} (h : s.str = some p) :
    s.beatsDue = p.remaining.toNat := by simp [beatsDue, h]

theorem State.bytesDue_of_none {s : State} (h : s.str = none) (text : List Byte) : s.bytesDue text = [] := by
  simp [bytesDue, h]

theorem State.bytesDue_of_some {s : State} {p : StrProgress} (h : s.str = some p) (text : List Byte) :
    s.bytesDue text = text ++ padding p.width (p.written.toNat + text.length) := by simp [bytesDue, h]

/-- The events still to come of the commands accepted so far: what the engine owes, then what the packet in progress,
with `text` still to come, sends on the channel. -/
def State.eventsDue (s : State) (text : List Byte) : List Event :=
  s.owed ++ s.channel.writes (bytes (s.bytesDue text) s.wpb.toNat)

@[simp] theorem Channel.writes_nil (ch : Channel) : ch.writes [] = [] := by
  unfold Channel.writes
  split
  · split <;> rfl
  · rfl

theorem State.eventsDue_of_none {s : State} (h : s.str = none) (text : List Byte) : s.eventsDue text = s.owed := by
  simp [eventsDue, bytesDue_of_none h]

theorem State.owed_of_idle {s : State} (hp : s.pend = []) (hq : s.rspPend = none) : s.owed = [] := by
  simp [owed, hp, hq]

/-- Bytes sent with nothing pending are all that is then owed. -/
theorem State.owed_emitIfOpen {s : State} (hp : s.pend = []) (hq : s.rspPend = none) (l : List Bit) :
    (s.emitIfOpen l).owed = s.channel.writes l := by
  simp [owed, State.emitIfOpen_owed, hp, hq]

theorem State.owed_sendBytes {s : State} (hp : s.pend = []) (hq : s.rspPend = none) (l : List Byte) :
    (s.sendBytes l).owed = s.channel.writes (bytes l s.wpb.toNat) := owed_emitIfOpen hp hq _

@[simp] theorem State.setStr_owed (s : State) (p : Option StrProgress) : (s.setStr p).owed = s.owed := rfl

@[simp] theorem State.clearChannel_owed (s : State) : s.clearChannel.owed = s.owed := rfl

/-! ### Accepting a command -/

/-- The engine has gone from `s` to `t` by taking the header of `c`: the channel has made its transition, the payload
beats of `c` are due, and so are its events. -/
structure Command.Accepted (c : Command) (s t : State) : Prop where
  channel : t.channel = c.next s.channel
  beatsDue : c.payload.length = t.beatsDue
  eventsDue : t.eventsDue c.payload = c.events s.channel

namespace Command.Accepted

/-- A command with no payload beats owes all its events at once. -/
theorem of_owed {c : Command} {s t : State} (hstr : t.str = none) (hpayload : c.payload = [])
    (hchannel : t.channel = c.next s.channel) (howed : t.owed = c.events s.channel) : c.Accepted s t where
  channel := hchannel
  beatsDue := by rw [hpayload, State.beatsDue_of_none hstr, List.length_nil]
  eventsDue := (State.eventsDue_of_none hstr _).trans howed

variable {s t : State}

theorem openChannel (hp : s.pend = []) (hstr : s.str = none) {baudRate writeDurationNs : Word} {wop : Option WopId}
    (h : exec (.openChannel baudRate wop writeDurationNs) s = .next t) :
    (Command.openChannel baudRate wop writeDurationNs).Accepted s t := by
  have hfail : (s.respond false).owed = [.rsp false] := by simp [State.owed, hp]
  cases wop with
  | none => cases h; exact of_owed hstr rfl rfl hfail
  | some id =>
    by_cases hv : openOperandsValid baudRate writeDurationNs = true
    · rw [exec_open_of_valid s id hv] at h; cases h
      refine of_owed (by simpa) rfl (by simp [State.channel, Command.next, hv]) ?_
      simp [State.owed, hp, Command.events, hv, WriteEvent.event]
    · rw [exec_open_of_invalid s id hv] at h; cases h
      exact of_owed hstr rfl (by simp [Command.next, hv]) (by simp [hfail, Command.events, hv])

variable (hp : s.pend = []) (hq : s.rspPend = none) (hstr : s.str = none)
include hp hq hstr

/-- The header of WRITE_STRING with a text: the packet and its padding are due (R93), or nothing when the text is empty
(R94). -/
theorem writeString {text : List Byte} {width : Word} (hlen : text.length < 2 ^ 32)
    (h : exec (.writeString true (BitVec.ofNat 32 text.length) width) s = .next t) :
    (Command.writeString (some text) width).Accepted s t := by
  have hidle := State.owed_of_idle hp hq
  have hnat : (BitVec.ofNat 32 text.length).toNat = text.length := Nat.mod_eq_of_lt hlen
  by_cases hnil : text = []
  · subst hnil; cases h
    exact of_owed hstr rfl rfl (by simp [hidle, Command.events, Command.output])
  · have hne : BitVec.ofNat 32 text.length ≠ 0 := by
      intro h0
      exact hnil (List.length_eq_zero_iff.1 (hnat.symm.trans (congrArg BitVec.toNat h0)))
    rw [exec, execWriteString, if_pos (by simpa using hne)] at h; cases h
    refine ⟨rfl, hnat.symm, ?_⟩
    rw [State.eventsDue, State.bytesDue_of_some rfl]
    simp [hidle, hnil, Command.events, Command.output, Command.payload, State.channel]

/-- Every command, by its constructor. -/
theorem of_exec {c : Command} (hwf : c.wf = true) (h : exec c.header s = .next t) : c.Accepted s t := by
  have hidle := State.owed_of_idle hp hq
  match c with
  | .openChannel _ _ _ => exact openChannel hp hstr h
  | .closeChannel => cases h; exact of_owed hstr rfl rfl hidle
  | .writeString (some text) _ => exact writeString hp hq hstr (of_decide_eq_true hwf) h
  | .writeString none _ => cases h; exact of_owed hstr rfl rfl (by simp [hidle, Command.events, Command.output])
  | .calibrate | .writeByte _ | .writeDecimal _ _ | .writeUint8 _ | .writeUint16 _ | .writeUint32 _ =>
    cases h; exact of_owed (by simpa) rfl (by simp [Command.next]) (State.owed_emitIfOpen hp hq _)

end Command.Accepted

end Machine

end Sys2Proof
end

section
/-! PROOFS. Every step without a reset keeps the sum of what is sent and what is still to be sent of an assembled
command list, and the channel it ends with (20_memory.md R42, R46). -/

namespace Sys2Proof.Machine

/-- The engine is on its way through an assembled command list: `text` are the characters still to come of the packet
in progress, `cs` the commands still to come, and when all of it is done the outputs are `sent` and the channel is
`ch`. -/
structure State.OnCourse (s : State) (sent : List Event) (ch : Channel) (text : List Byte) (cs : List Command) :
    Prop where
  inv : s.Inv
  wf : ∀ c ∈ cs, c.wf = true
  cmdIn : s.cmdIn = text.map payloadBeat ++ assemble cs
  beatsDue : text.length = s.beatsDue
  sent : outputs s.trace ++ s.eventsDue text ++ allEvents cs s.channel = sent
  channel : finalChannel cs s.channel = ch

namespace State.OnCourse

variable {s t : State} {sent : List Event} {ch : Channel} {text : List Byte} {cs : List Command}

/-- An idle engine is at the beginning of its course. -/
theorem of_idle (hinv : s.Inv) (hidle : s.idle = true) (hwf : ∀ c ∈ cs, c.wf = true)
    (hcmdIn : s.cmdIn = assemble cs) :
    s.OnCourse (outputs s.trace ++ allEvents cs s.channel) (finalChannel cs s.channel) [] cs := by
  obtain ⟨hp, hq, hstr⟩ := s.idle_eq_true.1 hidle
  refine ⟨hinv, hwf, by simpa, (beatsDue_of_none hstr).symm, ?_, rfl⟩
  simp [eventsDue_of_none hstr, owed_of_idle hp hq]

/-- When the run has ended nothing is left to come. -/
theorem of_ended (h : s.OnCourse sent ch text cs) (hended : s.ended) :
    outputs s.trace = sent ∧ s.channel = ch := by
  obtain ⟨hnil, hidle⟩ := hended
  obtain ⟨hp, hq, hstr⟩ := s.idle_eq_true.1 hidle
  obtain ⟨-, hassemble⟩ := List.append_eq_nil_iff.1 (h.cmdIn.symm.trans hnil)
  cases cs with
  | cons c cs => simp [assemble_cons] at hassemble
  | nil =>
    refine ⟨?_, h.channel⟩
    simpa [eventsDue_of_none hstr, owed_of_idle hp hq, allEvents] using h.sent

/-- A step that takes no beat, and sends from what the engine owes. -/
theorem of_sends (h : s.OnCourse sent ch text cs) (hinv : t.Inv) (hcmdIn : t.cmdIn = s.cmdIn) (hstr : t.str = s.str)
    (hchannel : t.channel = s.channel) (hsent : outputs t.trace ++ t.owed = outputs s.trace ++ s.owed) :
    t.OnCourse sent ch text cs where
  inv := hinv
  wf := h.wf
  cmdIn := hcmdIn.trans h.cmdIn
  beatsDue := by rw [h.beatsDue, State.beatsDue, State.beatsDue, hstr]
  sent := by
    have hwpb : t.wpb = s.wpb := congrArg Channel.wpb hchannel
    have hbytes : t.bytesDue text = s.bytesDue text := by rw [bytesDue, bytesDue, hstr]
    rw [← h.sent, eventsDue, eventsDue, hchannel, hwpb, hbytes, ← List.append_assoc, hsent]
    simp only [List.append_assoc]
  channel := hchannel ▸ h.channel

/-- Between packets the beat at the front is the header of the next command. -/
theorem header_next (h : s.OnCourse sent ch text cs) (hstr : s.str = none) {w : Beat} {rest : List Beat}
    (hc : s.cmdIn = w :: rest) :
    text = [] ∧ ∃ c cs', cs = c :: cs' ∧ w = encode c.header ∧ rest = c.payload.map payloadBeat ++ assemble cs' := by
  obtain rfl : text = [] := List.length_eq_zero_iff.1 (h.beatsDue.trans (beatsDue_of_none hstr))
  have hbeats := h.cmdIn.symm.trans hc
  cases cs with
  | nil => cases hbeats
  | cons c cs => cases hbeats; exact ⟨rfl, c, cs, rfl, rfl, rfl⟩

/-- The header of the next command is taken. -/
theorem of_accepted {c : Command} (h : s.OnCourse sent ch [] (c :: cs)) (hinv : t.Inv)
    (hcmdIn : t.cmdIn = c.payload.map payloadBeat ++ assemble cs) (hsent : outputs t.trace = outputs s.trace)
    (hidle : s.eventsDue [] = []) (hacc : c.Accepted s t) : t.OnCourse sent ch c.payload cs where
  inv := hinv
  wf c hc := h.wf c (List.mem_cons_of_mem _ hc)
  cmdIn := hcmdIn
  beatsDue := hacc.beatsDue
  sent := by
    rw [← h.sent, hsent, hidle, hacc.eventsDue, hacc.channel, allEvents, List.append_nil, List.append_assoc]
  channel := by rw [← h.channel, hacc.channel, finalChannel]

/-- Within a packet the beat at the front is its next character. -/
theorem payload_next (h : s.OnCourse sent ch text cs) {p : StrProgress} (hstr : s.str = some p) {w : Beat}
    {rest : List Beat} (hc : s.cmdIn = w :: rest) :
    ∃ v text', text = v :: text' ∧ w = payloadBeat v ∧ rest = text'.map payloadBeat ++ assemble cs := by
  have hlength : text.length = p.remaining.toNat := h.beatsDue.trans (beatsDue_of_some hstr)
  obtain ⟨hpos, -⟩ := h.inv.str_counts p hstr
  have hbeats := h.cmdIn.symm.trans hc
  cases text with
  | nil => simp at hlength; omega
  | cons v text => cases hbeats; exact ⟨v, text, rfl, rfl, rfl⟩

/-- The next character of the packet is taken: what it sends is owed, and the rest of the packet is due. -/
theorem of_payload {v : Byte} (h : s.OnCourse sent ch (v :: text) cs) (hinv : t.Inv)
    (hcmdIn : t.cmdIn = text.map payloadBeat ++ assemble cs) (hsent : outputs t.trace = outputs s.trace)
    (hchannel : t.channel = s.channel) (hbeats : text.length = t.beatsDue)
    (hevents : t.eventsDue text = s.eventsDue (v :: text)) : t.OnCourse sent ch text cs where
  inv := hinv
  wf := h.wf
  cmdIn := hcmdIn
  beatsDue := hbeats
  sent := by rw [← h.sent, hsent, hevents, hchannel]
  channel := hchannel ▸ h.channel

end State.OnCourse

/-- A payload beat moves what its character sends, and after the last one the padding, from what is due to what is
owed (R93, R95). -/
theorem execPayload_due {s t : State} {p : StrProgress} {v : Byte} {text : List Byte} (hp : s.pend = [])
    (hq : s.rspPend = none) (hstr : s.str = some p) (hlength : text.length + 1 = p.remaining.toNat)
    (hcounts : p.remaining.toNat + p.written.toNat < 2 ^ 32) (ht : execPayload p (payloadBeat v) s = .next t) :
    text.length = t.beatsDue ∧ t.eventsDue text = s.eventsDue (v :: text) := by
  have howed := State.owed_of_idle hp hq
  have hwritten : (p.written + 1).toNat = p.written.toNat + 1 := by bv_omega
  by_cases hlast : p.remaining = 1
  · obtain rfl : text = [] := List.length_eq_zero_iff.1 (by bv_omega)
    rw [execPayload_of_last hlast] at ht; cases ht
    refine ⟨(State.beatsDue_of_none rfl).symm, ?_⟩
    rw [State.eventsDue_of_none rfl, State.setStr_owed, State.owed_sendBytes hp hq, State.eventsDue, howed,
      State.bytesDue_of_some hstr, hwritten]
    simp
  · rw [execPayload_of_more hlast] at ht; cases ht
    refine ⟨by rw [State.beatsDue_of_some rfl]; bv_omega, ?_⟩
    rw [State.eventsDue, State.setStr_owed, State.owed_sendBytes hp hq, State.eventsDue, howed,
      State.bytesDue_of_some rfl, State.bytesDue_of_some hstr, hwritten]
    have hcount : p.written.toNat + (text.length + 1) = p.written.toNat + 1 + text.length := by omega
    simp [bytes_cons, Channel.writes_append, hcount]

/-- Kind by kind: a step without a reset keeps the engine on its course. -/
theorem State.StepsTo.onCourse {s t : State} {sent : List Event} {ch : Channel} {text : List Byte} {cs : List Command}
    (hst : s.StepsTo t) (hr : s.pins.rst = false) (h : s.OnCourse sent ch text cs) :
    ∃ text' cs', t.OnCourse sent ch text' cs' := by
  have hinv := hst.inv h.inv
  cases hst with
  | reset hr' => simp [hr] at hr'
  | write _ hp =>
    exact ⟨_, _, h.of_sends hinv (by simp) (by simp) (by simp [State.channel]) (by simp [owed, hp, WriteEvent.event])⟩
  | response _ hp hq =>
    exact ⟨_, _, h.of_sends hinv (by simp) (by simp) (by simp [State.channel]) (by simp [owed, hp, hq])⟩
  | wait => exact ⟨_, _, h.of_sends hinv (by simp) (by simp) (by simp) (by simp [owed])⟩
  | payload htakes hstr ht =>
    obtain ⟨-, hp, hq, -, hc⟩ := htakes
    obtain ⟨v, text, rfl, rfl, rfl⟩ := h.payload_next hstr hc
    obtain ⟨-, hcounts⟩ := h.inv.str_counts _ hstr
    obtain ⟨hbeats, hevents⟩ := execPayload_due (text := text) (by simpa) (by simpa) (by simpa)
      (h.beatsDue.trans (beatsDue_of_some hstr)) hcounts ht
    obtain ⟨l, q, rfl⟩ := execPayload_cases ht
    refine ⟨text, cs, h.of_payload hinv (by simp) (by simp) (by simp) hbeats (hevents.trans ?_)⟩
    simp [eventsDue, bytesDue, owed]
  | header htakes hstr hdec ht =>
    obtain ⟨-, hp, hq, -, hc⟩ := htakes
    obtain ⟨rfl, c, cs, rfl, rfl, rfl⟩ := h.header_next hstr hc
    cases hdec.symm.trans (decode_encode c.header_wf)
    have happ := appendsOwnEvents_of_exec ht
    have hacc := Command.Accepted.of_exec (by simpa) (by simpa) (by simpa) (h.wf c (by simp)) ht
    refine ⟨_, _, h.of_accepted hinv (by simp [happ.cmdIn]) (by simp [happ.trace]) ?_ ⟨?_, hacc.beatsDue, ?_⟩⟩
    · rw [eventsDue_of_none hstr, owed_of_idle hp hq]
    · simpa using hacc.channel
    · simpa using hacc.eventsDue
  | reserved htakes hstr hdec =>
    obtain ⟨-, -, -, -, hc⟩ := htakes
    obtain ⟨-, c, cs, -, rfl, -⟩ := h.header_next hstr hc
    cases hdec.symm.trans (decode_encode c.header_wf)

/-- A run without a reset keeps the engine on its course. -/
theorem State.OnCourse.of_run {s t : State} {sent : List Event} {ch : Channel} {text : List Byte} {cs : List Command}
    {k : Nat} (h : s.OnCourse sent ch text cs) (hrun : run k s = .next t)
    (hresets : resets t.trace = resets s.trace) : ∃ text' cs', t.OnCourse sent ch text' cs' :=
  run_invariant (P := fun u => ∃ text' cs', u.OnCourse sent ch text' cs')
    (fun _ _ ⟨_, _, hu⟩ hr hst => hst.onCourse hr hu) hrun hresets ⟨text, cs, h⟩

end Sys2Proof.Machine

namespace Sys2Proof

open Machine

/-- Settles O42: the run begins on the course of its commands, stays on it, and when it has ended nothing is left to
come. -/
theorem endedRunsSentEverything : Obligations.EndedRunsSentEverything := by
  intro cs s t k hwf hinv hidle hcmdIn hrun hresets hended
  obtain ⟨_, _, ht⟩ := (State.OnCourse.of_idle hinv hidle hwf hcmdIn).of_run hrun hresets
  exact ht.of_ended hended

end Sys2Proof
end

section
/-! PROOFS. Each port step as an equation: what a step answers when the write port, the response or the command port
is the one enabled, and how the levels move on (20_memory.md R33 to R38, R45). -/

namespace Sys2Proof.Machine

/-! ### The levels after a step -/

@[simp] theorem State.advancePins_pins (s : State) : s.advancePins.pins = s.pinsLater.head?.getD s.pins := by
  rw [State.advancePins_eq]

@[simp] theorem State.advancePins_pinsLater (s : State) : s.advancePins.pinsLater = s.pinsLater.tail := by
  rw [State.advancePins_eq]

@[simp] theorem State.takeBeat_pins (s : State) (w : Beat) (rest : List Beat) :
    (s.takeBeat w rest).pins = s.pinsLater.head?.getD s.pins := by simp [State.takeBeat]

@[simp] theorem State.takeBeat_pinsLater (s : State) (w : Beat) (rest : List Beat) :
    (s.takeBeat w rest).pinsLater = s.pinsLater.tail := by simp [State.takeBeat]

/-- The levels move on at every step, and at none by more than one (log entry 1). -/
theorem State.StepsTo.levels {s t : State} (h : s.StepsTo t) :
    t.pins = s.pinsLater.head?.getD s.pins ∧ t.pinsLater = s.pinsLater.tail := by
  cases h with
  | reset | write | response | reserved | wait => simp
  | payload _ _ ht => obtain ⟨l, q, rfl⟩ := execPayload_cases ht; simp
  | header _ _ _ ht =>
    have happ := appendsOwnEvents_of_exec ht
    simp [happ.pins, happ.pinsLater]

/-! ### The write port and the response -/

theorem step_of_write {s : State} {e : WriteEvent} {rest : List WriteEvent} (hr : s.pins.rst = false)
    (hp : s.pend = e :: rest) (hready : s.pins.wrReady = true) :
    step s = .next (({ s with pend := rest }).observe e.event).advancePins := by
  simp [step, writePortStep, hr, hp, hready, WriteEvent.event]

theorem step_of_hold {s : State} (hr : s.pins.rst = false) (hp : s.pend ≠ []) (hready : s.pins.wrReady = false) :
    step s = .next s.advancePins := by
  obtain ⟨e, rest, hp⟩ := List.exists_cons_of_ne_nil hp
  simp [step, writePortStep, waitStep, hr, hp, hready]

theorem step_of_response {s : State} {ok : Bool} (hr : s.pins.rst = false) (hp : s.pend = [])
    (hq : s.rspPend = some ok) : step s = .next (({ s with rspPend := none }).observe (.rsp ok)).advancePins := by
  simp [step, responseStep, hr, hp, hq]

/-- In a quiet environment the step sends the oldest pending event and changes nothing else. -/
theorem step_of_quiet_write {s : State} {e : WriteEvent} {rest : List WriteEvent} (hquiet : s.quiet)
    (hp : s.pend = e :: rest) : step s = .next { s with pend := rest, trace := s.trace ++ [e.event] } := by
  obtain ⟨hpins, hlater⟩ := hquiet
  rw [step_of_write (by simp [hpins, Pins.quiet]) hp (by simp [hpins, Pins.quiet])]
  exact congrArg Host.Outcome.next (State.advancePins_of_nil hlater)

/-! ### The command port -/

/-- The step that takes a beat does what the beat says (R35, R48). -/
theorem step_of_takes {s : State} {w : Beat} {rest : List Beat} (htakes : s.takes w rest) :
    step s = beatStep w (s.takeBeat w rest) := by
  obtain ⟨hr, hp, hq, hv, hc⟩ := htakes
  have hf : fetchBeat s = some (w, s.takeBeat w rest) := fetchBeat_eq_some.2 ⟨hv, rest, hc, rfl⟩
  simp [step, hr, hp, hq, hf]

/-- Writing `STR` after a command changes nothing of what the command leaves behind. -/
theorem State.AppendsOwnEvents.setStr_after {s t : State} (h : s.AppendsOwnEvents t) (p : Option StrProgress) :
    s.AppendsOwnEvents (t.setStr p) :=
  ⟨h.pend, h.cmdIn, h.trace, h.pins, h.pinsLater⟩

theorem execPayload_appendsOwnEvents (p : StrProgress) (w : Beat) (s : State) :
    ∃ t, execPayload p w s = .next t ∧ s.AppendsOwnEvents t := by
  by_cases hlast : p.remaining = 1
  · exact ⟨_, execPayload_of_last hlast w s, (State.AppendsOwnEvents.sendBytes s _).setStr_after _⟩
  · exact ⟨_, execPayload_of_more hlast w s, (State.AppendsOwnEvents.sendBytes s _).setStr_after _⟩

/-- Whatever the beat means, its effect completes, and appends at most events of the identifier held. -/
theorem beatStep_appendsOwnEvents (w : Beat) (s : State) : ∃ t, beatStep w s = .next t ∧ s.AppendsOwnEvents t := by
  unfold beatStep
  split
  case h_1 p _ => exact execPayload_appendsOwnEvents p w s
  case h_2 =>
    split
    case h_1 i _ => exact exec_appendsOwnEvents i s
    case h_2 => exact ⟨s, rfl, .refl s⟩

theorem appendsOwnEvents_of_beatStep {w : Beat} {s t : State} (h : beatStep w s = .next t) : s.AppendsOwnEvents t := by
  obtain ⟨u, hu, happ⟩ := beatStep_appendsOwnEvents w s
  cases hu.symm.trans h
  exact happ

/-- A step takes the first beat of the stream, or leaves the stream and adds to nothing (R35, R42). -/
theorem State.StepsTo.takes_or_keeps {s t : State} (h : s.StepsTo t) :
    (∃ w, s.takes w t.cmdIn ∧ t.trace = s.trace ++ [.cmd w]) ∨
      (t.cmdIn = s.cmdIn ∧ t.pend <:+ s.pend ∧ (t.rspPend = s.rspPend ∨ t.rspPend = none) ∧
        (t.str = s.str ∨ t.str = none)) := by
  cases h with
  | reset => exact .inr (by simp)
  | write _ hp => exact .inr (by simp [hp])
  | response => exact .inr (by simp)
  | wait => exact .inr (by simp)
  | payload htakes _ ht =>
    obtain ⟨l, q, rfl⟩ := execPayload_cases ht
    exact .inl ⟨_, by simpa, by simp⟩
  | header htakes _ _ ht =>
    have happ := appendsOwnEvents_of_exec ht
    exact .inl ⟨_, by simpa [happ.cmdIn], by simp [happ.trace]⟩
  | reserved htakes => exact .inl ⟨_, by simpa, by simp⟩

/-- Of the commands only OPEN writes `RSP_PEND` (R38). -/
theorem State.ExecTo.rspPend_changed {s t : State} {i : Instr} (h : s.ExecTo i t) (hne : t.rspPend ≠ s.rspPend) :
    i.opcode = 0x01 := by
  cases h with
  | opened _ hop | openFailed hop => exact hop
  | closed | unchanged | emitted | started => simp at hne

end Sys2Proof.Machine

namespace Sys2Proof

open Machine

/-- Settles O23, by the kind of the step (`State.StepsTo.takes_or_keeps`). -/
theorem beatsAreTakenOnlyWhenReady : Obligations.BeatsAreTakenOnlyWhenReady := by
  intro s t h
  obtain ⟨w, ⟨hr, hp, hq, hv, hc⟩, htrace⟩ | ⟨hc, hkept⟩ := (stepsTo_of_step h).takes_or_keeps
  · exact ⟨fun _ => ⟨s.cmdReady_eq_true.2 ⟨hp, hq⟩, hv, hr, w, hc, htrace⟩, fun heq => by simp [hc] at heq⟩
  · exact ⟨fun hne => absurd hc hne, fun _ => hkept⟩

/-- Settles O24: while the sink is silent a step holds the state, and so does every number of them. -/
theorem silentSinkHangsTheEngine : Obligations.SilentSinkHangsTheEngine := by
  intro s k hr hready hlater hp
  have hstep : step s = .next s := by rw [step_of_hold hr hp hready, State.advancePins_of_nil hlater]
  induction k with
  | zero => rfl
  | succ k ih => rw [run_succ_of_next hstep, ih]

/-- Settles O26, by the effects a command can have (`State.ExecTo.rspPend_changed`). -/
theorem onlyOpenResponds : Obligations.OnlyOpenResponds :=
  fun _ _ _ h => (execTo_of_exec h).rspPend_changed

/-- Settles O16 by the step that takes a header. -/
theorem stepRunsTheDecodedHeader : Obligations.StepRunsTheDecodedHeader :=
  fun _ _ _ _ => step_of_takes_header

/-- Settles O18: the ports show the head of `PEND`, and the step sends or holds it. -/
theorem writePortStepSendsTheOldestEvent : Obligations.WritePortStepSendsTheOldestEvent := by
  intro s e rest hr hp
  refine ⟨by simp [hp], by simp [State.wrBit, hp], by simp [State.wrId, hp], fun hready => ?_, fun hready => ?_⟩
  · rw [step_of_write hr hp hready, State.advancePins_eq]; rfl
  · rw [step_of_hold hr (by simp [hp]) hready, State.advancePins_eq]

/-- Settles O19, by the equation of the response step. -/
theorem responseStepFollowsTheWrites : Obligations.ResponseStepFollowsTheWrites := by
  intro s ok hr hp hq
  rw [step_of_response hr hp hq, State.advancePins_eq]; rfl

/-- Settles O39, by induction on what is pending: each step sends the head. -/
theorem pendingEventsDrainInOrder : Obligations.PendingEventsDrainInOrder := by
  intro s hquiet
  generalize hp : s.pend = pend
  induction pend generalizing s with
  | nil => cases s; simp_all
  | cons e rest ih =>
    rw [List.length_cons, run_succ_of_next (step_of_quiet_write hquiet hp)]
    refine (ih { s with pend := rest, trace := s.trace ++ [e.event] } hquiet rfl).trans ?_
    simp

/-- Settles O41: a run keeps to its course, on which what is sent is followed by what is still to come. -/
theorem runsSendOnlyTheCommandsEvents : Obligations.RunsSendOnlyTheCommandsEvents := by
  intro cs s t k hwf hinv hidle hcmdIn hrun hresets
  obtain ⟨text, cs', ht⟩ := (State.OnCourse.of_idle hinv hidle hwf hcmdIn).of_run hrun hresets
  exact ⟨t.eventsDue text ++ allEvents cs' t.channel, (List.append_assoc ..).symm.trans ht.sent⟩

end Sys2Proof
end

section
/-! PROOFS. The one observable event of a step, read off the state before it, and what the ports show of it
(20_memory.md R33, R36, R38, 60_exceptions.md R123). -/

namespace Sys2Proof.Machine

/-- The event of the step that `s` takes: the reset, the raw write the sink is ready for, the response, or the beat
offered; none when the engine waits. -/
def State.event (s : State) : Option Event :=
  if s.pins.rst then some .reset
  else
    match s.pend, s.rspPend with
    | e :: _, _ => if s.pins.wrReady then some e.event else none
    | [], some ok => some (.rsp ok)
    | [], none => if s.pins.cmdValid then s.cmdIn.head?.map .cmd else none

theorem State.event_of_reset {s : State} (hr : s.pins.rst = true) : s.event = some .reset := if_pos hr

theorem State.event_of_pend {s : State} {e : WriteEvent} {rest : List WriteEvent} (hr : s.pins.rst = false)
    (hp : s.pend = e :: rest) : s.event = if s.pins.wrReady then some e.event else none := by
  simp [event, hr, hp]

theorem State.event_of_response {s : State} {ok : Bool} (hr : s.pins.rst = false) (hp : s.pend = [])
    (hq : s.rspPend = some ok) : s.event = some (.rsp ok) := by
  simp [event, hr, hp, hq]

theorem State.event_of_cmdReady {s : State} (hr : s.pins.rst = false) (hp : s.pend = []) (hq : s.rspPend = none) :
    s.event = if s.pins.cmdValid then s.cmdIn.head?.map .cmd else none := by
  simp [event, hr, hp, hq]

/-- A step adds its event to the trace, and nothing else. -/
theorem trace_of_step {s t : State} (h : step s = .next t) : t.trace = s.trace ++ s.event.toList := by
  obtain ⟨hr, hs⟩ | ⟨e, rest, hr, hp, hs⟩ | ⟨ok, hr, hp, hq, hs⟩ | ⟨w, u, hr, hp, hq, hf, hs⟩ | ⟨hr, hp, hq, hf, hs⟩ :=
    step_cases s <;> rw [hs] at h
  · cases h; simp [State.event_of_reset hr]
  · rw [State.event_of_pend hr hp]
    unfold writePortStep at h
    split at h <;> cases h <;> simp_all [WriteEvent.event]
  · cases h; simp [State.event_of_response hr hp hq]
  · obtain ⟨hv, rest, hc, rfl⟩ := fetchBeat_eq_some.1 hf
    simp [State.event_of_cmdReady hr hp hq, hv, hc, (appendsOwnEvents_of_beatStep h).trace]
  · cases h
    obtain hv | hc := fetchBeat_eq_none.1 hf
    · simp [State.event_of_cmdReady hr hp hq, hv]
    · simp [State.event_of_cmdReady hr hp hq, hc]

/-- The trace shows the event `e` of a step exactly when `e` is the event of the state before. -/
theorem trace_eq_concat_iff {s t : State} (h : step s = .next t) (e : Event) :
    t.trace = s.trace ++ [e] ↔ s.event = some e := by
  rw [trace_of_step h, List.append_cancel_left_eq]
  cases s.event <;> simp

end Sys2Proof.Machine

namespace Sys2Proof

open Machine

/-- Settles O46: what the trace shows is the event of the state before (`trace_eq_concat_iff`), and in each of the four
situations of the engine the ports show that event. -/
theorem portsShowTheEventOfTheStep : Obligations.PortsShowTheEventOfTheStep := by
  intro s t h
  simp only [trace_eq_concat_iff h, State.rspOk_isSome, State.rspOk_eq_some, State.cmdReady_eq_true, true_and]
  cases hr : s.pins.rst with
  | true => simp [State.event_of_reset hr]
  | false =>
    cases hp : s.pend with
    | cons e rest => simp [State.event_of_pend hr hp, State.wrId, State.wrBit, hp, WriteEvent.event]
    | nil =>
      cases hq : s.rspPend with
      | some ok => simp [State.event_of_response hr hp hq, State.wrId, hp]
      | none => simp [State.event_of_cmdReady hr hp hq, State.wrId, hp]

end Sys2Proof
end

section
/-! PROOFS. A run under the liveness assumption comes to its end: every step keeps the assumption, and uses up a level
given, a beat, or an event the engine owes (20_memory.md R45, R46, 60_exceptions.md R129). -/

namespace Sys2Proof.Machine

/-! ### Every step answers -/

theorem exists_writePortStep (e : WriteEvent) (rest : List WriteEvent) (s : State) :
    ∃ t, writePortStep e rest s = .next t := by
  unfold writePortStep
  split
  · exact ⟨_, rfl⟩
  · exact ⟨_, rfl⟩

/-- No step ends in a fault or a refusal (R124). -/
theorem exists_step (s : State) : ∃ t, step s = .next t := by
  obtain ⟨-, hs⟩ | ⟨e, rest, -, -, hs⟩ | ⟨ok, -, -, -, hs⟩ | ⟨w, u, -, -, -, -, hs⟩ | ⟨-, -, -, -, hs⟩ :=
    step_cases s <;> rw [hs]
  · exact ⟨_, rfl⟩
  · exact exists_writePortStep e rest s
  · exact ⟨_, rfl⟩
  · obtain ⟨t, ht, -⟩ := beatStep_appendsOwnEvents w u
    exact ⟨t, ht⟩
  · exact ⟨_, rfl⟩

/-! ### The environment -/

/-- A step brings no reset that was not coming. -/
theorem State.StepsTo.noReset {s t : State} (h : s.StepsTo t) (hno : s.noReset) : t.noReset := by
  obtain ⟨hpins, hlater⟩ := h.levels
  obtain ⟨hr, hresets⟩ := hno
  rw [State.noReset, hpins, hlater]
  cases hl : s.pinsLater with
  | nil => simpa using hr
  | cons p ps => exact List.forall_mem_cons.1 (hl ▸ hresets)

/-- The levels that stay in the end are the same after a step. -/
theorem State.StepsTo.lastPins_eq {s t : State} (h : s.StepsTo t) : t.lastPins = s.lastPins := by
  obtain ⟨hpins, hlater⟩ := h.levels
  rw [lastPins, lastPins, hpins, hlater]
  cases s.pinsLater with
  | nil => rfl
  | cons p ps => simp [List.getLast?_cons]

theorem State.StepsTo.fair {s t : State} (h : s.StepsTo t) (hfair : s.fair) : t.fair := by
  obtain ⟨hno, hlast⟩ := hfair
  exact ⟨h.noReset hno, h.lastPins_eq.trans hlast⟩

/-- Once the levels given are used up, a fair environment is quiet. -/
theorem State.fair.quiet {s : State} (h : s.fair) (hlater : s.pinsLater = []) : s.quiet := by
  obtain ⟨-, hlast⟩ := h
  exact ⟨by simpa [lastPins, hlater] using hlast, hlater⟩

/-! ### Progress -/

/-- In a quiet environment a step takes a beat or sends an event owed, unless the engine has neither. -/
theorem step_progress_of_quiet {s t : State} (hquiet : s.quiet) (h : step s = .next t) :
    t.cmdIn.length < s.cmdIn.length ∨ (t.cmdIn = s.cmdIn ∧ t.owed.length < s.owed.length) ∨
      (s.cmdIn = [] ∧ s.pend = [] ∧ s.rspPend = none) := by
  obtain ⟨hpins, -⟩ := hquiet
  have hr : s.pins.rst = false := by rw [hpins]; rfl
  cases hp : s.pend with
  | cons e rest =>
    rw [step_of_write hr hp (by rw [hpins]; rfl)] at h; cases h
    exact .inr (.inl (by simp [State.owed, hp]))
  | nil =>
    cases hq : s.rspPend with
    | some ok =>
      rw [step_of_response hr hp hq] at h; cases h
      exact .inr (.inl (by simp [State.owed, hp, hq]))
    | none =>
      cases hc : s.cmdIn with
      | nil => simp
      | cons w rest =>
        rw [step_of_takes ⟨hr, hp, hq, by rw [hpins]; rfl, hc⟩] at h
        exact .inl (by simp [(appendsOwnEvents_of_beatStep h).cmdIn])

/-- On its course, an engine with no beat to take and nothing owed has ended its run. -/
theorem State.OnCourse.ended {s : State} {sent : List Event} {ch : Channel} {text : List Byte} {cs : List Command}
    (h : s.OnCourse sent ch text cs) (hc : s.cmdIn = []) (hp : s.pend = []) (hq : s.rspPend = none) : s.ended := by
  obtain ⟨htext, -⟩ := List.append_eq_nil_iff.1 (h.cmdIn.symm.trans hc)
  obtain rfl : text = [] := List.map_eq_nil_iff.1 htext
  have hstr : s.str = none := by
    refine Option.eq_none_iff_forall_ne_some.2 fun p hstr => ?_
    obtain ⟨hpos, -⟩ := h.inv.str_counts p hstr
    have hbeats := h.beatsDue
    rw [beatsDue_of_some hstr, List.length_nil] at hbeats
    omega
  exact ⟨hc, s.idle_eq_true.2 ⟨hp, hq, hstr⟩⟩

/-- What a run has still to use up: the levels given, then the beats, then the events owed. -/
def State.workLeft (s : State) : ℕ ×ₗ ℕ ×ₗ ℕ :=
  toLex (s.pinsLater.length, toLex (s.cmdIn.length, s.owed.length))

/-- A step of a run that has not ended leaves less to do. -/
theorem State.OnCourse.workLeft_lt {s t : State} {sent : List Event} {ch : Channel} {text : List Byte}
    {cs : List Command} (h : s.OnCourse sent ch text cs) (hfair : s.fair) (hended : ¬s.ended)
    (hstep : step s = .next t) : t.workLeft < s.workLeft := by
  obtain ⟨-, hlater⟩ := (stepsTo_of_step hstep).levels
  rw [workLeft, workLeft, hlater, Prod.Lex.toLex_lt_toLex]
  cases hl : s.pinsLater with
  | cons p ps => exact .inl (by simp)
  | nil =>
    refine .inr ⟨rfl, ?_⟩
    rw [Prod.Lex.toLex_lt_toLex]
    obtain hlt | ⟨heq, hlt⟩ | ⟨hc, hp, hq⟩ := step_progress_of_quiet (hfair.quiet hl) hstep
    · exact .inl hlt
    · exact .inr ⟨congrArg List.length heq, hlt⟩
    · exact absurd (h.ended hc hp hq) hended

/-- A run on its course, in a fair environment, ends. -/
theorem State.OnCourse.exists_ended {s : State} {sent : List Event} {ch : Channel} {text : List Byte}
    {cs : List Command} (h : s.OnCourse sent ch text cs) (hfair : s.fair) :
    ∃ (k : Nat) (t : State), run k s = .next t ∧ t.ended := by
  by_cases hended : s.ended
  · exact ⟨0, s, rfl, hended⟩
  · obtain ⟨u, hu⟩ := exists_step s
    have hst := stepsTo_of_step hu
    have ⟨⟨hr, _⟩, _⟩ := hfair
    have hlt := h.workLeft_lt hfair hended hu
    obtain ⟨text', cs', hcourse⟩ := hst.onCourse hr h
    obtain ⟨k, t, hrun, ht⟩ := hcourse.exists_ended (hst.fair hfair)
    exact ⟨k + 1, t, (run_succ_of_next hu k).trans hrun, ht⟩
termination_by s.workLeft
decreasing_by exact hlt

end Sys2Proof.Machine

namespace Sys2Proof

open Machine

/-- Settles O43: the run begins on the course of its commands, and each of its steps leaves less to do
(`State.OnCourse.exists_ended`). -/
theorem fairRunsEnd : Obligations.FairRunsEnd :=
  fun _ _ hwf hinv hidle hcmdIn hfair => (State.OnCourse.of_idle hinv hidle hwf hcmdIn).exists_ended hfair

end Sys2Proof
end

section
/-! PROOFS. The beats of an assembled command list, read by position (30_encoding.md R41, R55, R62). -/

namespace Sys2Proof.Machine

/-- The header of WRITE_STRING announces its length when a text is present (R55). -/
theorem payloadBeats_encode_writeString (textPresent : Bool) (len width : Word) :
    payloadBeats (encode (.writeString textPresent len width)) = if textPresent then len.toNat else 0 := by
  simp [payloadBeats, encode]

/-- The header of a well-formed command announces its payload (R55, R62). -/
theorem Command.payloadBeats_header {c : Command} (hwf : c.wf = true) :
    payloadBeats (encode c.header) = c.payload.length := by
  match c with
  | .writeString (some text) width =>
    have hlen : text.length < 2 ^ 32 := of_decide_eq_true hwf
    rw [header, payloadBeats_encode_writeString, if_pos rfl, BitVec.toNat_ofNat, Nat.mod_eq_of_lt hlen, payload]
  | .writeString none width => exact payloadBeats_encode_writeString false 0 width
  | .openChannel _ (some _) _ | .openChannel _ none _ | .closeChannel | .calibrate | .writeByte _
  | .writeDecimal _ _ | .writeUint8 _ | .writeUint16 _ | .writeUint32 _ =>
    exact Laws.payloadBeats_of_opcode (by simp [header, encode])

/-- A reader by position passes over exactly the announced beats. -/
theorem packetsComplete_append (payload rest : List Beat) :
    packetsComplete payload.length (payload ++ rest) = packetsComplete 0 rest := by
  induction payload with
  | nil => rfl
  | cons w payload ih => exact ih

/-- The packet of a well-formed command ends where the next header stands. -/
theorem packetsComplete_assemble_cons {c : Command} (hwf : c.wf = true) (cs : List Command) :
    packetsComplete 0 (assemble (c :: cs)) = packetsComplete 0 (assemble cs) := by
  rw [assemble_cons, packetsComplete, c.payloadBeats_header hwf, ← List.length_map payloadBeat,
    packetsComplete_append]

end Sys2Proof.Machine

namespace Sys2Proof

open Machine

/-- Settles O36: each header announces its packet's payload, and the list is read packet by packet. -/
theorem assembledPacketsAreComplete : Obligations.AssembledPacketsAreComplete := by
  refine ⟨fun c => c.payloadBeats_header, fun cs hwf => ?_⟩
  induction cs with
  | nil => rfl
  | cons c cs ih =>
    obtain ⟨hc, hcs⟩ := List.forall_mem_cons.1 hwf
    rw [packetsComplete_assemble_cons hc, ih hcs]

end Sys2Proof
end

section
/-! PROOFS. The reference sink: what a write event does to lines and logs, and the decoder run over the frames the
engine sends (20_memory.md R44, 42_byte_framer.md R85, R86). -/

namespace Sys2Proof.Machine

/-! ### Lines and logs -/

theorem sinkLog_concat_same (id : WopId) (trace : List Event) (b : Bit) :
    sinkLog id (trace ++ [.wr id b]) = sinkLog id trace ++ [b] := by simp [sinkLog]

theorem sinkLog_concat_other {id other : WopId} (h : other ≠ id) (trace : List Event) (b : Bit) :
    sinkLog other (trace ++ [.wr id b]) = sinkLog other trace := by simp [sinkLog, h.symm]

/-! ### The decoder -/

theorem takeGroup_bitWrite {w : Nat} (hw : 0 < w) (b : Bit) (rest : List Bit) :
    takeGroup w (bitWrite b w ++ rest) = some (b, rest) := by
  obtain ⟨n, rfl⟩ := Nat.exists_eq_add_one.2 hw
  simp [takeGroup, bitWrite, List.replicate_succ]

/-- Bit-writes of one width are read back group by group. -/
theorem takeGroups_bitWrites {w : Nat} (hw : 0 < w) (bs rest : List Bit) :
    takeGroups w bs.length (bs.flatMap (bitWrite · w) ++ rest) = some (bs, rest) := by
  induction bs with
  | nil => rfl
  | cons b bs ih => simp [takeGroups, takeGroup_bitWrite hw, ih]

/-- The number whose binary digits are `bs`, least significant first, has `bs` as its bits. -/
theorem testBit_foldr (bs : List Bit) (k : Nat) :
    (bs.foldr (fun (b : Bit) n => b.toNat + 2 * n) 0).testBit k = bs.getD k false := by
  induction bs generalizing k with
  | nil => simp
  | cons b bs ih =>
    rw [List.foldr_cons, Nat.add_comm, ← Nat.bit_val]
    cases k with
    | zero => simp
    | succ k => simp [Nat.testBit_bit_succ, ih]

/-- The eight data Bits of a Symbol give its byte back (R85). -/
theorem byteOfBits_frameBits (v : Byte) : byteOfBits (((frameBits v).drop 1).take 8) = v := by
  refine BitVec.eq_of_getLsbD_eq fun k hk => ?_
  rw [byteOfBits, BitVec.getLsbD_ofNat, testBit_foldr]
  interval_cases k <;> simp [frameBits]

/-- A frame is read back as its byte. -/
theorem readSymbol_frame {w : Nat} (hw : 0 < w) (v : Byte) (rest : List Bit) :
    readSymbol w (frame v w ++ rest) = some (v, rest) := by
  have hgroups : takeGroups w 10 (frame v w ++ rest) = some (frameBits v, rest) :=
    takeGroups_bitWrites hw (frameBits v) rest
  have hends : (frameBits v).head? = some space ∧ (frameBits v).getLast? = some mark := ⟨rfl, rfl⟩
  simp only [readSymbol, hgroups, if_pos hends, byteOfBits_frameBits]

end Sys2Proof.Machine

namespace Sys2Proof

open Machine

/-- Settles O44, by induction on the bytes: the first Symbol is read as its byte (`readSymbol_frame`). -/
theorem sinkReadsTheBytesBack : Obligations.SinkReadsTheBytesBack := by
  intro w l hw
  induction l with
  | nil => rfl
  | cons v l ih => simp [readSymbols, bytes_cons, readSymbol_frame hw, ih]

/-- Settles O45: the line is the last Bit of the log. -/
theorem writeEventDrivesItsLineOnly : Obligations.WriteEventDrivesItsLineOnly := by
  intro trace id other b hne
  have hsame := sinkLog_concat_same id trace b
  have hother := sinkLog_concat_other hne trace b
  exact ⟨by simp [sinkLine, hsame], hsame, by simp [sinkLine, hother], hother⟩

end Sys2Proof
end

section
/-! PROOFS. The decoder: which headers name a command and which are reserved, and what of a beat it reads
(30_encoding.md R56, R58 to R60, R64). -/

namespace Sys2Proof

/-- The opcode alone says whether a header names a command (R56, R58). -/
theorem exists_decode_iff (w : Beat) :
    (∃ i, decode w = .ok i) ↔ 1 ≤ (opField w).toNat ∧ (opField w).toNat ≤ 9 := by
  constructor
  · rintro ⟨i, hi⟩
    exact Machine.opcode_of_decode hi ▸ Laws.opcode_range i
  · rintro ⟨hlow, hhigh⟩
    interval_cases hop : (opField w).toNat <;> simp [decode, hop]

/-- A header of a reserved opcode decodes to an error (R58). -/
theorem exists_decode_error {w : Beat} (h : (opField w).toNat = 0 ∨ 10 ≤ (opField w).toNat) :
    ∃ e, decode w = .error e := by
  cases hdec : decode w with
  | ok i => have := (exists_decode_iff w).1 ⟨i, hdec⟩; omega
  | error e => exact ⟨e, rfl⟩

/-- The decoder gives an absent text the length 0 (R60). -/
theorem wf_of_decode {w : Beat} {i : Instr} (h : decode w = .ok i) : i.wf = true := by
  unfold decode at h
  split at h <;> cases h
  case h_5 => cases hp : presentField w <;> simp [Instr.wf]
  all_goals rfl

/-! ### Ignored bits -/

/-- Two headers agree on the opcode and on the fields, or the parts of fields, that its command uses (R59). -/
structure UsedBitsAgree (w w' : Beat) : Prop where
  opcode : opField w = opField w'
  /-- OPEN uses `ID` with `P` = 1 only (R51, R52). -/
  openOperands : (opField w).toNat = 1 → presentField w = presentField w' ∧
    (presentField w = true → idField w = idField w') ∧ aField w = aField w' ∧ bField w = bField w'
  byteOperand : (opField w).toNat = 4 ∨ (opField w).toNat = 7 → w.extractLsb' 16 8 = w'.extractLsb' 16 8
  /-- WRITE_STRING uses `A` with `P` = 1 only (R51, R60). -/
  stringOperands : (opField w).toNat = 5 → presentField w = presentField w' ∧
    (presentField w = true → aField w = aField w') ∧ bField w = bField w'
  decimalOperands : (opField w).toNat = 6 → aField w = aField w' ∧ bField w = bField w'
  halfOperand : (opField w).toNat = 8 → w.extractLsb' 16 16 = w'.extractLsb' 16 16
  wordOperand : (opField w).toNat = 9 → aField w = aField w'

/-- An operand behind the present flag counts only when the flag is 1 (R51). -/
theorem ite_present_eq {α : Type} {p p' : Bool} {a a' b : α} (hp : p = p') (ha : p = true → a = a') :
    (if p then a else b) = if p' then a' else b := by
  subst hp
  exact ite_congr rfl ha fun _ => rfl

/-- The decoder reads nothing but the bits the command uses (R59, R60). -/
theorem decode_eq_of_usedBitsAgree {w w' : Beat} (h : UsedBitsAgree w w') : decode w = decode w' := by
  unfold decode
  rw [← h.opcode]
  split
  case h_1 hop =>
    obtain ⟨hp, hid, ha, hb⟩ := h.openOperands hop
    rw [ha, hb, ite_present_eq hp fun hpresent => congrArg some (hid hpresent)]
  case h_4 hop => rw [aField_low8, aField_low8, h.byteOperand (.inl hop)]
  case h_5 hop =>
    obtain ⟨hp, ha, hb⟩ := h.stringOperands hop
    rw [ite_present_eq hp ha, hp, hb]
  case h_6 hop =>
    obtain ⟨ha, hb⟩ := h.decimalOperands hop
    rw [ha, hb]
  case h_7 hop => rw [aField_low8, aField_low8, h.byteOperand (.inr hop)]
  case h_8 hop => rw [aField_low16, aField_low16, h.halfOperand hop]
  case h_9 hop => rw [h.wordOperand hop]
  case h_2 | h_3 | h_10 => rfl

namespace Machine

/-- Of a payload beat only the character counts (R50, R59). -/
theorem execPayload_eq_of_chField {w w' : Beat} (h : chField w = chField w') (p : StrProgress) (s : State) :
    execPayload p w s = execPayload p w' s := by
  rw [execPayload, h, execPayload]

/-- The command port reads from a beat only its character and what it decodes to (R35, R48). -/
theorem beatStep_eq_of_decode {w w' : Beat} (hch : chField w = chField w') (hdec : decode w = decode w')
    (s : State) : beatStep w s = beatStep w' s := by
  cases hstr : s.str with
  | some p => simp only [beatStep, hstr, execPayload_eq_of_chField hch]
  | none => simp only [beatStep, hstr, hdec]

end Machine

open Machine

/-- Settles O32: every operand is read back from the field it was put in (`decode_encode`). -/
theorem decodeOfEncodeIsTheCommand : Obligations.DecodeOfEncodeIsTheCommand := fun _ => decode_encode

/-- Settles O33, from the opcodes that decode (`exists_decode_iff`) and what they decode to. -/
theorem opcodeAloneSelectsTheCommand : Obligations.OpcodeAloneSelectsTheCommand :=
  fun w => ⟨exists_decode_iff w, fun _ h => ⟨opcode_of_decode h, wf_of_decode h⟩⟩

/-- Settles O34: two such headers decode alike (`decode_eq_of_usedBitsAgree`), and the effect of a beat depends only on
its character and on what it decodes to (`beatStep_eq_of_decode`). -/
theorem ignoredBitsHaveNoEffect : Obligations.IgnoredBitsHaveNoEffect := by
  refine ⟨fun w w' hop hopen hbyte hstring hdecimal hhalf hword => ?_,
    fun w w' p s hch => execPayload_eq_of_chField hch p s⟩
  have hdec : decode w = decode w' :=
    decode_eq_of_usedBitsAgree ⟨hop, hopen, hbyte, hstring, hdecimal, hhalf, hword⟩
  exact ⟨hdec, beatStep_eq_of_decode hop hdec⟩

/-- Settles O17: the beat is taken (`step_of_takes`), and its header decodes to an error, which the port ignores. -/
theorem reservedOpcodeIsTakenAndIgnored : Obligations.ReservedOpcodeIsTakenAndIgnored := by
  intro s w rest htakes hstr hop
  obtain ⟨e, hdec⟩ := exists_decode_error hop
  rw [step_of_takes htakes, ← State.takeBeat_eq]
  simp [beatStep, hstr, hdec, ignoreHeader]

/-- Settles O35, by decoding each of the thirteen headers. -/
theorem workedEncodingsDecode : Obligations.WorkedEncodingsDecode := by
  unfold Obligations.WorkedEncodingsDecode
  decide

end Sys2Proof
end

section
/-! PROOFS. The channel commands: OPEN and CLOSE on every state (40_channel.md R67 to R74), and a whole OPEN in a quiet
environment, from its beat to its response (20_memory.md R42, 41_bit_writer.md R76). -/

namespace Sys2Proof.Machine

/-! ### OPEN and CLOSE on every state -/

/-- What a valid OPEN writes, and that it writes nothing else (R67, R70). -/
theorem State.opened_eq (s : State) (id : WopId) (wpb : Word) :
    s.opened id wpb =
      { s with
        isOpen := true
        wop := some id
        wpb := wpb
        pend := s.pend ++ List.replicate wpb.toNat { id := id, bit := mark }
        rspPend := some true } := by
  rw [opened, State.bitWrite, emitIfOpen_of_open rfl, emitAll_of_some (id := id) rfl]
  simp [Machine.bitWrite, respond, setChannel]

/-- An OPEN with an invalid operand only fails, whichever operand it is (R68). -/
theorem exec_open_of_rejected (s : State) {baudRate writeDurationNs : Word} {wop : Option WopId}
    (h : baudRate = 0 ∨ wop = none ∨ writeDurationNs = 0) :
    exec (.openChannel baudRate wop writeDurationNs) s = .next (s.respond false) := by
  cases wop with
  | none => rfl
  | some id =>
    refine exec_open_of_invalid s id fun hv => ?_
    obtain ⟨hbaud, hduration⟩ := (openOperandsValid_iff ..).1 hv
    obtain h0 | ⟨⟨⟩⟩ | h0 := h
    · exact hbaud h0
    · exact hduration h0

/-- The two divisions of OPEN are one division by the product (R69). -/
theorem toNat_writesPerBit_eq_div_mul (baudRate writeDurationNs : Word) :
    (writesPerBit baudRate writeDurationNs).toNat = 1000000000 / (baudRate.toNat * writeDurationNs.toNat) := by
  rw [toNat_writesPerBit, Nat.div_div_eq_div_mul, Config.nsPerSec]

/-- The width is 0 exactly when one write outlasts the bit period (R71). -/
theorem writesPerBit_eq_zero_iff {baudRate writeDurationNs : Word} (hduration : writeDurationNs ≠ 0) :
    writesPerBit baudRate writeDurationNs = 0 ↔ 1000000000 / baudRate.toNat < writeDurationNs.toNat := by
  have hpos : writeDurationNs.toNat ≠ 0 := by simpa [BitVec.toNat_eq] using hduration
  rw [BitVec.toNat_eq, toNat_writesPerBit, Config.nsPerSec]
  simp [Nat.div_eq_zero_iff, hpos]

theorem exec_close (s : State) : exec .closeChannel s = .next s.clearChannel := rfl

theorem State.clearChannel_clearChannel (s : State) : s.clearChannel.clearChannel = s.clearChannel := rfl

/-! ### A command in a quiet environment -/

/-- In a quiet environment an idle engine runs the command of the header offered, and only the stream and the trace
have moved before it. -/
theorem step_of_quiet_header {s : State} {w : Beat} {rest : List Beat} {i : Instr} (hquiet : s.quiet)
    (hidle : s.idle = true) (hc : s.cmdIn = w :: rest) (hdec : decode w = .ok i) :
    step s = exec i { s with cmdIn := rest, trace := s.trace ++ [.cmd w] } := by
  obtain ⟨hpins, hlater⟩ := hquiet
  obtain ⟨hp, hq, hstr⟩ := s.idle_eq_true.1 hidle
  rw [step_of_takes_header ⟨by rw [hpins]; rfl, hp, hq, by rw [hpins]; rfl, hc⟩ hstr hdec, ← State.takeBeat_eq]
  exact congrArg (exec i) (State.advancePins_of_nil hlater)

/-- In a quiet environment the response leaves once nothing else is pending. -/
theorem step_of_quiet_response {s : State} {ok : Bool} (hquiet : s.quiet) (hp : s.pend = [])
    (hq : s.rspPend = some ok) : step s = .next { s with rspPend := none, trace := s.trace ++ [.rsp ok] } := by
  obtain ⟨hpins, hlater⟩ := hquiet
  rw [step_of_response (by rw [hpins]; rfl) hp hq]
  exact congrArg Host.Outcome.next (State.advancePins_of_nil hlater)

/-- In a quiet environment a pending response leaves right behind the pending write events (R38, R76). -/
theorem run_of_quiet_response {s : State} {ok : Bool} (hquiet : s.quiet) (hq : s.rspPend = some ok) :
    run (s.pend.length + 1) s = .next { s with pend := [], rspPend := none, trace := s.trace ++ s.owed } := by
  have hresponse := step_of_quiet_response
    (s := { s with pend := [], trace := s.trace ++ s.pend.map WriteEvent.event }) hquiet rfl hq
  rw [run_add_of_next (pendingEventsDrainInOrder s hquiet)]
  exact (run_succ_of_next hresponse 0).trans (by simp [State.owed, hq])

/-- From the state a valid OPEN leaves, with nothing pending before it, the idle bit-write and the response leave. -/
theorem run_opened_of_quiet {s : State} (hquiet : s.quiet) (hp : s.pend = []) (id : WopId) (wpb : Word) :
    run (wpb.toNat + 1) (s.opened id wpb) = .next
      { s with
        isOpen := true
        wop := some id
        wpb := wpb
        rspPend := none
        trace := s.trace ++ List.replicate wpb.toNat (.wr id mark) ++ [.rsp true] } := by
  have hlength : (s.opened id wpb).pend.length = wpb.toNat := by simp [hp]
  have hrun := run_of_quiet_response (s := s.opened id wpb) hquiet rfl
  rw [hlength] at hrun
  rw [hrun, State.opened_eq]
  simp [State.owed, WriteEvent.event, hp]

end Sys2Proof.Machine

namespace Sys2Proof

open Machine

/-- Settles O38: the first step takes the header and opens the channel (`step_of_quiet_header`), and then
the `WPB` raw writes and the response leave (`run_opened_of_quiet`). -/
theorem openRespondsAfterItsIdleBitWrite : Obligations.OpenRespondsAfterItsIdleBitWrite := by
  intro s rest baudRate writeDurationNs id hquiet hidle hc hbaud hduration
  have hvalid := (openOperandsValid_iff ..).2 ⟨hbaud, hduration⟩
  obtain ⟨hp, hq, -⟩ := s.idle_eq_true.1 hidle
  have hheader := step_of_quiet_header hquiet hidle hc (decode_encode rfl)
  rw [run_succ_of_next (hheader.trans (exec_open_of_valid _ id hvalid)), run_opened_of_quiet]
  · simp [hq]
  · exact hquiet
  · exact hp

/-- Settles O4: OPEN succeeds whatever the width (`exec_open_of_valid`), and a width of 0 appends no raw write. -/
theorem openSucceedsWithWidthZero : Obligations.OpenSucceedsWithWidthZero := by
  intro s baudRate writeDurationNs id hbaud hduration
  refine ⟨_, exec_open_of_valid s id ((openOperandsValid_iff ..).2 ⟨hbaud, hduration⟩), ?_⟩
  rw [State.opened_wpb]
  refine ⟨State.opened_isOpen .., rfl, writesPerBit_eq_zero_iff hduration, fun hzero => ?_⟩
  simp [hzero]

/-- Settles O3, from the state a valid OPEN leaves (`State.opened_eq`) and from what rejects an OPEN. -/
theorem openSetsTheChannelOrFails : Obligations.OpenSetsTheChannelOrFails := by
  intro s baudRate writeDurationNs
  refine ⟨fun id hbaud hduration => ?_, fun wop => exec_open_of_rejected s⟩
  rw [exec_open_of_valid s id ((openOperandsValid_iff ..).2 ⟨hbaud, hduration⟩), State.opened_eq,
    ← toNat_writesPerBit_eq_div_mul, BitVec.ofNat_toNat, BitVec.setWidth_eq]

/-- Settles O6: CLOSE clears the channel registers (`exec_close`). -/
theorem closeClearsTheWriteOperation : Obligations.CloseClearsTheWriteOperation := exec_close

/-- Settles O7: clearing the channel registers twice is clearing them once. -/
theorem closeIsIdempotent : Obligations.CloseIsIdempotent := by
  intro s t u ht hu
  rw [exec_close] at ht hu
  cases ht
  cases hu
  exact s.clearChannel_clearChannel

end Sys2Proof
end

section
/-! PROOFS. The Byte Framer: which Bit stands at each place of a sequence of bit-writes and of a Symbol, and what
WRITE_BYTE sends (42_byte_framer.md R84 to R87). -/

namespace Sys2Proof.Machine

/-- In bit-writes of one width `w`, the `k`-th raw write belongs to the Bit number `k / w` (R79). -/
theorem getElem?_flatMap_bitWrite {w : Nat} (hw : 0 < w) (bs : List Bit) (k : Nat) :
    (bs.flatMap (bitWrite · w))[k]? = bs[k / w]? := by
  induction bs generalizing k with
  | nil => rfl
  | cons b bs ih =>
    rw [List.flatMap_cons]
    by_cases hk : k < w
    · rw [List.getElem?_append_left (by simpa), Nat.div_eq_of_lt hk]
      simp [bitWrite, hk]
    · have hle : w ≤ k := Nat.le_of_not_lt hk
      rw [List.getElem?_append_right (by simpa), length_bitWrite, ih, Nat.div_eq_sub_div hw hle,
        List.getElem?_cons_succ]

/-- The Bits of a Symbol by index: Space, bits 0 to 7 of the byte, Mark (R85). -/
theorem getElem?_frameBits (v : Byte) {j : Nat} (hj : j < 10) :
    (frameBits v)[j]? = some (if j = 0 then space else if j = 9 then mark else v.getLsbD (j - 1)) := by
  interval_cases j <;> rfl

/-- The `k`-th raw write of a Symbol carries its Bit number `k / w` (R85, R86). -/
theorem getElem_frame (v : Byte) {w k : Nat} (hk : k < (frame v w).length) :
    (frame v w)[k] =
      if k / w = 0 then space else if k / w = 9 then mark else v.getLsbD (k / w - 1) := by
  have hlt : k < w * 10 := by simpa [Nat.mul_comm] using hk
  have hw : 0 < w := Nat.pos_of_lt_mul_right hlt
  have hbit := (getElem?_flatMap_bitWrite hw (frameBits v) k).trans
    (getElem?_frameBits v (Nat.div_lt_of_lt_mul hlt))
  exact (List.getElem?_eq_some_iff.1 hbit).2

theorem bytes_singleton (v : Byte) (w : Nat) : bytes [v] w = frame v w := by
  rw [bytes_cons, bytes_nil, List.append_nil]

theorem exec_writeByte (v : Byte) (s : State) : exec (.writeByte v) s = .next (s.sendBytes [v]) := rfl

/-- On an open channel WRITE_BYTE appends the Symbol of its byte and changes nothing else (R84). -/
theorem exec_writeByte_of_open {s : State} {id : WopId} (ho : s.isOpen = true) (hw : s.wop = some id) (v : Byte) :
    exec (.writeByte v) s = .next { s with pend := s.pend ++ writeEvents id (frame v s.wpb.toNat) } := by
  rw [exec_writeByte, State.sendBytes_of_open ho hw, bytes_singleton, writeEvents]

/-- On a closed channel WRITE_BYTE changes nothing (R87). -/
theorem exec_writeByte_of_closed {s : State} (h : s.isOpen = false) (v : Byte) : exec (.writeByte v) s = .next s := by
  rw [exec_writeByte, State.sendBytes_of_closed h]

end Sys2Proof.Machine

namespace Sys2Proof

open Machine

/-- Settles O8: the events sent are those of one frame (`exec_writeByte_of_open`), whose raw writes
`getElem_frame` gives by index. -/
theorem writeByteSendsOneSymbol : Obligations.WriteByteSendsOneSymbol := by
  intro s v
  refine ⟨fun id ho hw => ⟨_, exec_writeByte_of_open ho hw v, by simp, fun k hk => ?_⟩,
    fun h => exec_writeByte_of_closed h v⟩
  have hframe : k < (frame v s.wpb.toNat).length := by simpa using hk
  simp only [writeEvents, List.getElem_map, getElem_frame v hframe]

end Sys2Proof
end

section
/-! PROOFS. The texts of the formatters: the hexadecimal and decimal texts the model builds are those of the spec's
tables, and how long a decimal text is (43_formatters.md R91, R97, R100 to R105). -/

namespace Sys2Proof.Machine

/-! ### Hexadecimal -/

/-- The character of a nibble is its place in the table (R91, R103). -/
theorem hexDigit_eq_getD (n : BitVec 4) : hexDigit n = upperHexCharacters.getD n.toNat 0 := by
  revert n
  decide

/-- The character of the nibble at bit `k` of a word. -/
theorem hexDigit_extractLsb' {w : Nat} (v : BitVec w) (k : Nat) :
    hexDigit (v.extractLsb' k 4) = upperHexCharacters.getD (v.toNat / 2 ^ k % 16) 0 := by
  rw [hexDigit_eq_getD, BitVec.extractLsb'_toNat, Nat.shiftRight_eq_div_pow]

/-- A text of `m + n` characters is the text of the number without its last `n` digits, then the text of these. -/
theorem upperHexText_add (m n v : Nat) :
    upperHexText (m + n) v = upperHexText m (v / 16 ^ n) ++ upperHexText n v := by
  simp only [upperHexText, List.range_add, List.map_append, List.map_map]
  congr 1
  · refine List.map_congr_left fun k hk => ?_
    have hlt : k < m := List.mem_range.1 hk
    have hexp : m + n - 1 - k = n + (m - 1 - k) := by omega
    rw [hexp, Nat.pow_add, Nat.div_div_eq_div_mul]
  · refine List.map_congr_left fun k _ => ?_
    have hexp : m + n - 1 - (m + k) = n - 1 - k := by omega
    rw [Function.comp_apply, hexp]

/-- `Hex2` is the text of two characters (R103). -/
theorem hex2_eq_upperHexText (v : Byte) : hex2 v = upperHexText 2 v.toNat := by
  simp only [hex2, hexDigit_extractLsb']
  simp [upperHexText, List.range_succ]

/-- A text of two characters reads the low byte only. -/
theorem upperHexText_two_mod (v : Nat) : upperHexText 2 (v % 2 ^ 8) = upperHexText 2 v := by
  have hhigh : v % 256 / 16 % 16 = v / 16 % 16 := by omega
  simp [upperHexText, List.range_succ, hhigh]

/-- `Hex2` of the byte at bit `k` of a word. -/
theorem hex2_extractLsb' {w : Nat} (v : BitVec w) (k : Nat) :
    hex2 (v.extractLsb' k 8) = upperHexText 2 (v.toNat / 2 ^ k) := by
  rw [hex2_eq_upperHexText, BitVec.extractLsb'_toNat, Nat.shiftRight_eq_div_pow, upperHexText_two_mod]

/-- The text of WRITE_UINT16 (R104). -/
theorem hex4_eq_upperHexText (v : Half) : hex4 v = upperHexText 4 v.toNat := by
  simp only [hex4, hex2_extractLsb', upperHexText_add 2 2]
  norm_num

/-- The text of WRITE_UINT32 (R105). -/
theorem hex8_eq_upperHexText (v : Word) : hex8 v = upperHexText 8 v.toNat := by
  simp only [hex8, hex2_extractLsb', upperHexText_add 6 2, upperHexText_add 4 2, upperHexText_add 2 2,
    Nat.div_div_eq_div_mul]
  norm_num

/-! ### Decimal -/

theorem decDigit_eq (d : Nat) : decDigit d = BitVec.ofNat 8 (0x30 + d) := by
  rw [BitVec.ofNat_add]; rfl

theorem decimalDigits_of_lt_ten {m : Nat} (h : m < 10) : decimalDigits m = [decDigit m] := by
  by_cases h0 : m = 0
  · subst h0; rfl
  · simp [decimalDigits, h0, Nat.digits_of_lt 10 m h0 h, decDigit_eq]

theorem decimalDigits_of_ten_le {m : Nat} (h : 10 ≤ m) :
    decimalDigits m = decimalDigits (m / 10) ++ [decDigit (m % 10)] := by
  have hm : m ≠ 0 := by omega
  have hdiv : m / 10 ≠ 0 := by omega
  simp only [decimalDigits, if_neg hm, if_neg hdiv, Nat.digits_eq_cons_digits_div (by decide : 1 < 10) hm,
    List.reverse_cons, List.map_append, List.map_cons, List.map_nil, decDigit_eq]

/-- Repeated division by 10 gives the decimal digits, when there is fuel for all of them (R97). -/
theorem decDigits_eq_decimalDigits {fuel m : Nat} (h : m < 10 ^ (fuel + 1)) :
    decDigits (fuel + 1) m = decimalDigits m := by
  induction fuel generalizing m with
  | zero =>
    have hlt : m < 10 := by simpa using h
    rw [decDigits, if_pos hlt, decimalDigits_of_lt_ten hlt]
  | succ fuel ih =>
    rw [decDigits]
    split
    case isTrue hlt => rw [decimalDigits_of_lt_ten hlt]
    case isFalse hge =>
      rw [decimalDigits_of_ten_le (Nat.le_of_not_lt hge), ih (Nat.div_lt_of_lt_mul (by rwa [Nat.pow_succ'] at h))]

/-- Ten digits hold every magnitude, that of the most negative value included (R98, R100). -/
theorem magnitude_lt (v : Word) : magnitude v < 10 ^ 10 := by
  have hle := BitVec.le_toInt v
  have hlt := BitVec.toInt_lt (x := v)
  unfold magnitude
  omega

/-- `DecStr` is the natural representation of the value (R97). -/
theorem decStr_eq_decimalRepresentation (v : Word) : decStr v = decimalRepresentation v.toInt := by
  rw [decStr, decDigits_eq_decimalDigits (magnitude_lt v)]
  rfl

theorem length_decimalDigits (m : Nat) :
    (decimalDigits m).length = if m = 0 then 1 else Nat.log 10 m + 1 := by
  unfold decimalDigits
  split
  case isTrue => rfl
  case isFalse h => rw [List.length_map, List.length_reverse, Nat.length_digits 10 m (by decide) h]

theorem length_decimalRepresentation (v : Int) :
    (decimalRepresentation v).length = (if v < 0 then 1 else 0) + (decimalDigits v.natAbs).length := by
  unfold decimalRepresentation
  split
  case isTrue => rw [List.length_cons, Nat.add_comm]
  case isFalse => rw [Nat.zero_add]

/-- A number below `10 ^ n` has at least one decimal digit, and at most `n`. -/
theorem length_decimalDigits_bounds {m n : Nat} (hn : 0 < n) (h : m < 10 ^ n) :
    1 ≤ (decimalDigits m).length ∧ (decimalDigits m).length ≤ n := by
  rw [length_decimalDigits]
  split
  case isTrue => exact ⟨le_rfl, hn⟩
  case isFalse hm => exact ⟨Nat.le_add_left 1 _, Nat.log_lt_of_lt_pow hm h⟩

end Sys2Proof.Machine

namespace Sys2Proof

open Machine

/-- Settles O12: sign and digits counted apart (`length_decimalRepresentation`), the digits at most ten
(`magnitude_lt`). -/
theorem decimalLengthIsSignPlusDigits : Obligations.DecimalLengthIsSignPlusDigits := by
  intro v
  obtain ⟨hpos, hten⟩ := length_decimalDigits_bounds (n := 10) (by decide) (magnitude_lt v)
  rw [decStr_eq_decimalRepresentation, length_decimalRepresentation, ← length_decimalDigits]
  refine ⟨rfl, Nat.le_add_left_of_le hpos, Nat.add_le_add (b := 1) ?_ hten⟩
  split <;> decide

end Sys2Proof
end

section
/-! PROOFS. The Formatters on every state: what the hexadecimal formatters, WRITE_DECIMAL and the two kinds of beat of
WRITE_STRING send and leave unchanged (43_formatters.md R92 to R105). -/

namespace Sys2Proof.Machine

/-- On an open channel a packet is the write events of its frames, behind what is pending (R83, R90). -/
theorem State.sendBytes_eq_writeEvents {s : State} {id : WopId} (ho : s.isOpen = true) (hw : s.wop = some id)
    (l : List Byte) : s.sendBytes l = { s with pend := s.pend ++ writeEvents id (bytes l s.wpb.toNat) } :=
  State.sendBytes_of_open ho hw l

/-! ### The numbers -/

theorem exec_writeUint8 (v : Byte) (s : State) :
    exec (.writeUint8 v) s = .next (s.sendBytes (upperHexText 2 v.toNat)) := by
  rw [← hex2_eq_upperHexText]; rfl

theorem exec_writeUint16 (v : Half) (s : State) :
    exec (.writeUint16 v) s = .next (s.sendBytes (upperHexText 4 v.toNat)) := by
  rw [← hex4_eq_upperHexText]; rfl

theorem exec_writeUint32 (v : Word) (s : State) :
    exec (.writeUint32 v) s = .next (s.sendBytes (upperHexText 8 v.toNat)) := by
  rw [← hex8_eq_upperHexText]; rfl

theorem exec_writeDecimal (value width : Word) (s : State) :
    exec (.writeDecimal value width) s = .next (s.sendBytes (decimalText value width)) := rfl

/-- What WRITE_DECIMAL sends, by the natural representation of its value (R97, R99). -/
theorem decimalText_eq (value width : Word) :
    decimalText value width =
      List.replicate (width.toNat - (decimalRepresentation value.toInt).length) 0x20 ++
        decimalRepresentation value.toInt := by
  rw [decimalText, decStr_eq_decimalRepresentation]
  rfl

/-! ### WRITE_STRING -/

/-- A present, non-empty text starts a packet (R93). -/
theorem exec_writeString_of_text {len : Word} (h : len ≠ 0) (width : Word) (s : State) :
    exec (.writeString true len width) s =
      .next (s.setStr (some { remaining := len, written := 0, width := width })) :=
  if_pos (by simpa using h)

/-- An absent or empty text is over at once (R94). -/
theorem exec_writeString_of_no_text {textPresent : Bool} {len : Word} (h : textPresent = false ∨ len = 0)
    (width : Word) (s : State) : exec (.writeString textPresent len width) s = .next s :=
  if_neg (by simpa [Classical.or_iff_not_imp_left] using h)

/-- The step that takes a beat while a packet is in progress reads it as a payload beat (R48, R93). -/
theorem step_of_takes_payload {s : State} {w : Beat} {rest : List Beat} {p : StrProgress} (htakes : s.takes w rest)
    (hstr : s.str = some p) : step s = execPayload p w (s.afterBeat w rest) := by
  rw [step_of_takes htakes, State.takeBeat_eq]
  simp [beatStep, State.afterBeat, hstr]

end Sys2Proof.Machine

namespace Sys2Proof

open Machine

/-- Settles O9: the three texts are those of the table (`hex2_eq_upperHexText`, `hex4_eq_upperHexText`,
`hex8_eq_upperHexText`), sent as one packet. -/
theorem hexFormattersSendFixedWidthUpperCase : Obligations.HexFormattersSendFixedWidthUpperCase := by
  intro s
  simp only [exec_writeUint8, exec_writeUint16, exec_writeUint32]
  constructor
  · intro id ho hw
    simp only [State.sendBytes_eq_writeEvents ho hw, implies_true, and_self]
  · intro hclosed
    simp only [State.sendBytes_of_closed hclosed, implies_true, and_self]

/-- Settles O10: the text is padding and natural representation (`decimalText_eq`), sent as one packet. -/
theorem writeDecimalSendsThePaddedNumber : Obligations.WriteDecimalSendsThePaddedNumber := by
  intro s value width
  rw [exec_writeDecimal]
  constructor
  · intro id ho hw
    rw [State.sendBytes_eq_writeEvents ho hw, decimalText_eq]
  · intro hclosed
    rw [State.sendBytes_of_closed hclosed]

/-- Settles O11: the text of the most negative value at width 0, evaluated. -/
theorem writeDecimalOfTheMostNegativeValue : Obligations.WriteDecimalOfTheMostNegativeValue := by
  intro s id ho hw
  have htext : decimalText 0x80000000 0 =
      [0x2D, 0x32, 0x31, 0x34, 0x37, 0x34, 0x38, 0x33, 0x36, 0x34, 0x38] := by decide
  rw [exec_writeDecimal, State.sendBytes_eq_writeEvents ho hw, htext]

/-- Settles O13, by whether there is a text to send. -/
theorem writeStringHeaderStartsThePacket : Obligations.WriteStringHeaderStartsThePacket := by
  intro s textPresent len width
  constructor
  · rintro rfl hlen
    exact exec_writeString_of_text hlen width s
  · intro h
    exact exec_writeString_of_no_text h width s

/-- Settles O14: the step is that of a payload beat (`step_of_takes_payload`), by whether it is the last one and
whether the channel is open. -/
theorem payloadBeatSendsItsCharacter : Obligations.PayloadBeatSendsItsCharacter := by
  intro s w rest p htakes hstr
  have hp : (s.afterBeat w rest).pend = [] := by
    obtain ⟨-, hp, -⟩ := htakes
    exact hp
  rw [step_of_takes_payload htakes hstr]
  refine ⟨fun id ho hw => ⟨fun hmore => ?_, fun hlast => ?_⟩, fun hclosed => ⟨fun hmore => ?_, fun hlast => ?_⟩⟩
  · rw [execPayload_of_more hmore, State.sendBytes_eq_writeEvents (s := s.afterBeat w rest) ho hw, hp]; rfl
  · rw [execPayload_of_last hlast, State.sendBytes_eq_writeEvents (s := s.afterBeat w rest) ho hw, hp]; rfl
  · rw [execPayload_of_more hmore, State.sendBytes_of_closed (s := s.afterBeat w rest) hclosed]; rfl
  · rw [execPayload_of_last hlast, State.sendBytes_of_closed (s := s.afterBeat w rest) hclosed]; rfl

end Sys2Proof
end

section
/-! PROOFS. A whole WRITE_STRING packet in a quiet environment: the frame of each character leaves before the next beat
is taken, and the padding after the last one (43_formatters.md R92, R93, R95). -/

namespace Sys2Proof.Machine

/-- What is seen of one payload beat: the beat, then the frame of its character. -/
def characterEvents (id : WopId) (w : Nat) (ch : Byte) : List Event :=
  .cmd (payloadBeat ch) :: (frame ch w).map (.wr id)

theorem flatMap_characterEvents (id : WopId) (w : Nat) (text : List Byte) :
    text.flatMap (characterEvents id w) =
      text.flatMap fun ch => .cmd (payloadBeat ch) :: (frame ch w).map (.wr id) := rfl

/-- `s` further on in a WRITE_STRING packet: `STR` is `q`, the beats `rest` are left, and `events` were seen. -/
def State.inPacket (s : State) (q : Option StrProgress) (rest : List Beat) (events : List Event) : State :=
  { s with str := q, cmdIn := rest, trace := s.trace ++ events }

theorem State.inPacket_inPacket (s : State) (q q' : Option StrProgress) (rest rest' : List Beat)
    (events events' : List Event) :
    (s.inPacket q rest events).inPacket q' rest' events' = s.inPacket q' rest' (events ++ events') := by
  simp [inPacket]

section

variable {s : State} {id : WopId} (hquiet : s.quiet) (hp : s.pend = []) (ho : s.isOpen = true) (hw : s.wop = some id)
include hquiet hp

/-- In a quiet environment a payload beat is taken as soon as nothing is pending, and only the stream and the trace
have moved before its effect. -/
theorem step_of_quiet_payload {p : StrProgress} {w : Beat} {rest : List Beat} (hq : s.rspPend = none)
    (hstr : s.str = some p) (hc : s.cmdIn = w :: rest) :
    step s = execPayload p w { s with cmdIn := rest, trace := s.trace ++ [.cmd w] } := by
  obtain ⟨hpins, hlater⟩ := hquiet
  rw [step_of_takes_payload ⟨by rw [hpins]; rfl, hp, hq, by rw [hpins]; rfl, hc⟩ hstr, ← State.takeBeat_eq]
  exact congrArg (execPayload p w) (State.advancePins_of_nil hlater)

include ho hw

/-- In a quiet environment bytes sent with nothing pending leave whole, in order. -/
theorem run_sendBytes_of_quiet (l : List Byte) (q : Option StrProgress) :
    run (bytes l s.wpb.toNat).length ((s.sendBytes l).setStr q) = .next
      (s.inPacket q s.cmdIn ((bytes l s.wpb.toNat).map (.wr id))) := by
  have hdrain := pendingEventsDrainInOrder
    { s with pend := writeEvents id (bytes l s.wpb.toNat), str := q } hquiet
  rw [length_writeEvents] at hdrain
  rw [State.sendBytes_eq_writeEvents ho hw, hp]
  refine hdrain.trans ?_
  simp [State.inPacket, hp, writeEvents, WriteEvent.event, Function.comp_def]

/-- A payload beat whose effect is to send `l` and to write `STR`: once the beat is taken, the frames of `l` leave. -/
theorem run_of_quiet_payload {p : StrProgress} {v : Byte} {rest : List Beat} (hq : s.rspPend = none)
    (hstr : s.str = some p) (hc : s.cmdIn = payloadBeat v :: rest) {l : List Byte} {q : Option StrProgress}
    (heffect : ∀ t, execPayload p (payloadBeat v) t = .next ((t.sendBytes l).setStr q)) :
    run ((bytes l s.wpb.toNat).length + 1) s = .next
      (s.inPacket q rest (.cmd (payloadBeat v) :: (bytes l s.wpb.toNat).map (.wr id))) := by
  have hdrain := run_sendBytes_of_quiet
    (s := { s with cmdIn := rest, trace := s.trace ++ [.cmd (payloadBeat v)] }) hquiet hp ho hw l q
  rw [run_succ_of_next ((step_of_quiet_payload hquiet hp hq hstr hc).trans (heffect _)), hdrain]
  simp [State.inPacket]

end

/-- The rest of a packet of `n` characters, `v :: text` being those still to come: their frames leave, each behind its
beat, then the padding that brings `n` characters up to the width. -/
theorem run_packet_of_quiet {s : State} {id : WopId} {p : StrProgress} {v : Byte} {text : List Byte}
    {rest : List Beat} {n : Nat} (hquiet : s.quiet) (hp : s.pend = []) (ho : s.isOpen = true) (hw : s.wop = some id)
    (hq : s.rspPend = none) (hstr : s.str = some p) (hc : s.cmdIn = (v :: text).map payloadBeat ++ rest)
    (hremaining : p.remaining.toNat = (v :: text).length) (hcounts : p.written.toNat + p.remaining.toNat = n)
    (hn : n < 2 ^ 32) :
    ∃ k, run k s = .next
      (s.inPacket none rest
        ((v :: text).flatMap (characterEvents id s.wpb.toNat) ++
          (bytes (padding p.width n) s.wpb.toNat).map (.wr id))) := by
  induction text generalizing s p v with
  | nil =>
    have hlast : p.remaining = 1 := BitVec.eq_of_toNat_eq hremaining
    have hwritten : (p.written + 1).toNat = n := by bv_omega
    have hrun := run_of_quiet_payload hquiet hp ho hw hq hstr hc (execPayload_of_last hlast _)
    rw [chField_payloadBeat, hwritten] at hrun
    exact ⟨_, hrun.trans (by simp [bytes_cons, characterEvents])⟩
  | cons u text ih =>
    rw [List.length_cons] at hremaining
    have hmore : p.remaining ≠ 1 := by intro h; simp [h] at hremaining
    have hrun := run_of_quiet_payload hquiet hp ho hw hq hstr hc (execPayload_of_more hmore _)
    rw [chField_payloadBeat, bytes_singleton] at hrun
    have hless : (p.remaining - 1).toNat = (u :: text).length := by bv_omega
    have hsum : (p.written + 1).toNat + (p.remaining - 1).toNat = n := by bv_omega
    obtain ⟨k, hk⟩ := ih
      (s := s.inPacket (some { remaining := p.remaining - 1, written := p.written + 1, width := p.width }) _ _)
      hquiet hp ho hw hq rfl rfl hless hsum
    refine ⟨_ + k, (run_add_of_next hrun k).trans (hk.trans ?_)⟩
    rw [State.inPacket_inPacket]
    simp [characterEvents, State.inPacket]

end Sys2Proof.Machine

namespace Sys2Proof

open Machine

/-- Settles O40: the first step takes the header and starts the packet, and then the packet runs to its end
(`run_packet_of_quiet`). -/
theorem stringPacketSendsTextThenPadding : Obligations.StringPacketSendsTextThenPadding := by
  intro s rest text width id hquiet hidle ho hw hne hlength hc
  obtain ⟨v, text, rfl⟩ := List.exists_cons_of_ne_nil hne
  obtain ⟨hp, hq, hstr⟩ := s.idle_eq_true.1 hidle
  have hlen : (BitVec.ofNat 32 (v :: text).length).toNat = (v :: text).length := Nat.mod_eq_of_lt hlength
  have hlen_ne : BitVec.ofNat 32 (v :: text).length ≠ 0 := by
    intro h0
    rw [h0] at hlen
    cases hlen
  have hheader := (step_of_quiet_header hquiet hidle hc (decode_encode (Command.header_wf _))).trans
    (exec_writeString_of_text hlen_ne width _)
  obtain ⟨k, hk⟩ := run_packet_of_quiet (s := s.inPacket
      (some { remaining := BitVec.ofNat 32 (v :: text).length, written := 0, width := width })
      ((v :: text).map payloadBeat ++ rest)
      [.cmd (encode (.writeString true (BitVec.ofNat 32 (v :: text).length) width))])
    hquiet hp ho hw hq rfl rfl hlen ((Nat.zero_add _).trans hlen) hlength
  refine ⟨k + 1, (run_succ_of_next hheader k).trans (hk.trans ?_)⟩
  rw [State.inPacket_inPacket, flatMap_characterEvents]
  simp [State.inPacket, hstr, padding, asciiSpace]

end Sys2Proof
end

section
/-! PROOFS. The Calibration Generator: which Bit stands at each place of the calibration sequence, and what CALIBRATE
sends (44_calibration.md R110 to R113). -/

namespace Sys2Proof.Machine

/-! ### The pattern -/

/-- The frames of a byte list are one run of bit-writes: those of the Bits of its Symbols (R85). -/
theorem bytes_eq_flatMap_bitWrite (l : List Byte) (w : Nat) :
    bytes l w = (l.flatMap frameBits).flatMap (bitWrite · w) :=
  List.flatMap_assoc.symm

/-- The Bits of the pattern Symbols alternate from Space on, across the Symbols too, since a Symbol has ten (R112). -/
theorem flatMap_frameBits_calPattern (n : Nat) :
    (List.replicate n Config.calPattern).flatMap frameBits =
      (List.range (10 * n)).map fun j => decide (j % 2 = 1) := by
  induction n with
  | zero => rfl
  | succ n ih =>
    have hsymbol : frameBits Config.calPattern = (List.range 10).map fun j => decide (j % 2 = 1) := by decide
    have hparity (j : Nat) : (10 + j) % 2 = j % 2 := Nat.mul_add_mod 2 5 j
    rw [List.replicate_succ, List.flatMap_cons, ih, hsymbol, Nat.mul_add, Nat.add_comm, List.range_add]
    simp [hparity]

/-- The `k`-th raw write of the pattern carries Bit number `k / w` of an alternation (R112). -/
theorem getElem_bytes_calPattern {w n k : Nat} (hk : k < (bytes (List.replicate n Config.calPattern) w).length) :
    (bytes (List.replicate n Config.calPattern) w)[k] = decide (k / w % 2 = 1) := by
  have hlt : k < w * (10 * n) := by simpa [Nat.mul_left_comm, Nat.mul_assoc] using hk
  have hw : 0 < w := Nat.pos_of_lt_mul_right hlt
  have hbit := getElem?_flatMap_bitWrite hw ((List.replicate n Config.calPattern).flatMap frameBits) k
  rw [← bytes_eq_flatMap_bitWrite, flatMap_frameBits_calPattern, List.getElem?_map,
    List.getElem?_range (Nat.div_lt_of_lt_mul hlt)] at hbit
  exact (List.getElem?_eq_some_iff.1 hbit).2

/-- The calibration sequence by index: preamble, pattern, postamble (R112). -/
theorem getElem_calSeq {w i n k : Nat} (hk : k < (calSeq w i n).length) :
    (calSeq w i n)[k] =
      if k < i then mark else if i + 10 * w * n ≤ k then mark else decide ((k - i) / w % 2 = 1) := by
  simp only [calSeq, List.getElem_append, List.getElem_replicate, getElem_bytes_calPattern, List.length_append,
    List.length_replicate, length_bytes]
  by_cases hpre : k < i
  · simp [hpre]
  · by_cases hpost : i + 10 * w * n ≤ k
    · simp [hpost]
    · simp [hpre, hpost]

/-! ### CALIBRATE -/

/-- On an open channel CALIBRATE appends the calibration sequence and changes nothing else (R110, R113). -/
theorem exec_calibrate_of_open {s : State} {id : WopId} (ho : s.isOpen = true) (hw : s.wop = some id) :
    exec .calibrate s = .next
      { s with
        pend := s.pend ++ writeEvents id (calSeq Config.calWpb Config.calIdleWrites Config.calByteCount) } := by
  rw [exec, execCalibrate, State.emitIfOpen_of_open ho, State.emitAll_of_some hw, writeEvents]

/-- On a closed channel CALIBRATE changes nothing (R111). -/
theorem exec_calibrate_of_closed {s : State} (h : s.isOpen = false) : exec .calibrate s = .next s := by
  rw [exec, execCalibrate, State.emitIfOpen_of_closed h]

end Sys2Proof.Machine

namespace Sys2Proof

open Machine

/-- Settles O15: the events sent are those of the calibration sequence (`exec_calibrate_of_open`), whose raw writes
`length_calSeq` counts and `getElem_calSeq` gives by index. -/
theorem calibrateSendsTheAlternatingPattern : Obligations.CalibrateSendsTheAlternatingPattern := by
  intro s
  refine ⟨fun id ho hw => ⟨_, exec_calibrate_of_open ho hw, ?_, fun k hk => ?_⟩, exec_calibrate_of_closed⟩
  · rw [length_writeEvents, length_calSeq]
  · simp only [writeEvents, List.getElem_map, getElem_calSeq]

end Sys2Proof
end

section
/-! PROOFS. The steps that no port takes part in: the reset and the wait, as equations, and that every step answers
(60_exceptions.md R123 to R126, R134, 70_reset_and_hazards.md R135 to R137). -/

namespace Sys2Proof.Machine

/-- A reset wins over everything pending or offered (R135). -/
theorem step_of_reset {s : State} (hr : s.pins.rst = true) :
    step s = .next (s.resetEngine.observe .reset).advancePins := by
  simp [step, resetStep, hr]

/-- With nothing pending and no beat offered no port step is enabled, whether or not a packet is in progress (R134,
R149). -/
theorem step_of_no_beat {s : State} (hr : s.pins.rst = false) (hp : s.pend = []) (hq : s.rspPend = none)
    (hbeat : s.pins.cmdValid = false ∨ s.cmdIn = []) : step s = .next s.advancePins := by
  have hf : fetchBeat s = none := fetchBeat_eq_none.2 hbeat
  simp [step, waitStep, hr, hp, hq, hf]

end Sys2Proof.Machine

namespace Sys2Proof

open Machine

/-- Settles O2: the step is that of a reset (`step_of_reset`), and the outputs are read off the reset elements. -/
theorem resetWorksInAnyState : Obligations.ResetWorksInAnyState := by
  intro s hr
  refine ⟨_, step_of_reset hr, by rw [State.advancePins_eq]; rfl, ?_⟩
  simp [State.stOpen, State.stWopPresent, State.stWopId, State.stWpb, State.stBusy, State.busy, State.wrValid,
    State.rspValid]

/-- Settles O20, by the equation of the wait (`step_of_no_beat`). -/
theorem engineWaitsForABeat : Obligations.EngineWaitsForABeat := by
  intro s hr hp hq hbeat
  rw [step_of_no_beat hr hp hq hbeat, State.advancePins_eq]

/-- Settles O29, by the kinds of step there are (`exists_step`). -/
theorem everyStepAnswersANextState : Obligations.EveryStepAnswersANextState := exists_step

end Sys2Proof
end

section
/-! PROOFS. The table of raw writes: the write events of a Bit list on a channel are counted once, and the row of each
command is the length of what it sends (70_reset_and_hazards.md R154). -/

namespace Sys2Proof.Machine

/-! ### Counting raw writes -/

theorem Channel.writes_of_closed {ch : Channel} (h : ch.isOpen = false) (l : List Bit) : ch.writes l = [] := by
  simp [Channel.writes, h]

theorem Channel.writes_of_open {ch : Channel} {id : WopId} (ho : ch.isOpen = true) (hw : ch.wop = some id)
    (l : List Bit) : ch.writes l = l.map (Event.wr id) := by
  simp [Channel.writes, ho, hw]

@[simp] theorem Event.isWrite_wr (id : WopId) (b : Bit) : (Event.wr id b).isWrite = true := rfl

@[simp] theorem Event.isWrite_rsp (ok : Bool) : (Event.rsp ok).isWrite = false := rfl

@[simp] theorem filter_isWrite_map_wr (id : WopId) (l : List Bit) :
    (l.map (Event.wr id)).filter Event.isWrite = l.map (Event.wr id) :=
  List.filter_eq_self.2 (List.forall_mem_map.2 fun b _ => Event.isWrite_wr id b)

/-- A channel that holds a write operation exactly when open makes one raw write for each Bit when open, and none when
closed (R15, R18 a). -/
theorem Channel.length_filter_writes {ch : Channel} (hch : ch.isOpen = true ↔ ch.wop.isSome = true) (l : List Bit) :
    ((ch.writes l).filter Event.isWrite).length = if ch.isOpen then l.length else 0 := by
  cases ho : ch.isOpen
  case false => simp [writes_of_closed ho]
  case true =>
    obtain ⟨id, hw⟩ := Option.isSome_iff_exists.1 (hch.1 ho)
    simp [writes_of_open ho hw]

/-- The Symbol of a byte is ten bit-writes, each `WPB` raw writes (R86). -/
theorem Channel.length_filter_writes_bytes {ch : Channel} (hch : ch.isOpen = true ↔ ch.wop.isSome = true)
    (l : List Byte) :
    ((ch.writes (bytes l ch.wpb.toNat)).filter Event.isWrite).length =
      if ch.isOpen then 10 * ch.wpb.toNat * l.length else 0 := by
  rw [length_filter_writes hch, length_bytes]

/-! ### The rows of the table -/

/-- OPEN writes its Idle bit at the new width when it succeeds, and nothing when it fails, whatever the channel was. -/
theorem length_filter_events_openChannel (baudRate : Word) (wop : Option WopId) (writeDurationNs : Word)
    (ch : Channel) :
    (((Command.openChannel baudRate wop writeDurationNs).events ch).filter Event.isWrite).length =
      (Command.openChannel baudRate wop writeDurationNs).rawWrites ch := by
  cases wop with
  | none => rfl
  | some id =>
    simp only [Command.events, Command.rawWrites]
    split <;> simp [List.filter_replicate]

theorem length_output_writeString {text : List Byte} (h : text ≠ []) (width : Word) :
    (Command.writeString (some text) width).output.length = max text.length width.toNat := by
  simp only [Command.output, List.isEmpty_eq_false_iff.2 h, Bool.false_eq_true, if_false, List.length_append,
    length_padding]
  omega

end Sys2Proof.Machine

namespace Sys2Proof

open Machine

/-- Settles O37, row by row: apart from OPEN (`length_filter_events_openChannel`) and CLOSE a command sends one Bit list
on the channel, so its raw writes are the length of that list when open, and none when closed. -/
theorem commandsMakeTheTabledRawWrites : Obligations.CommandsMakeTheTabledRawWrites := by
  intro c ch hch
  have hbytes := Channel.length_filter_writes_bytes hch
  cases c with
  | openChannel baudRate wop writeDurationNs => exact length_filter_events_openChannel baudRate wop writeDurationNs ch
  | closeChannel => rfl
  | calibrate => rw [Command.events, Channel.length_filter_writes hch, length_calSeq, Command.rawWrites]
  | writeByte byte => simp [Command.events, Command.rawWrites, hbytes, Command.output]
  | writeString text width =>
    rcases text with _ | text
    · simp [Command.events, Command.rawWrites, Command.output]
    · by_cases htext : text = []
      · simp [Command.events, Command.rawWrites, Command.output, htext]
      · simp [Command.events, Command.rawWrites, hbytes, length_output_writeString htext, htext]
  | writeDecimal value width =>
    simp [Command.events, Command.rawWrites, hbytes, Command.output, length_decimalText]
  | writeUint8 value => simp [Command.events, Command.rawWrites, hbytes, Command.output, Nat.mul_right_comm]
  | writeUint16 value => simp [Command.events, Command.rawWrites, hbytes, Command.output, Nat.mul_right_comm]
  | writeUint32 value => simp [Command.events, Command.rawWrites, hbytes, Command.output, Nat.mul_right_comm]

end Sys2Proof
end
